-- ==== Sys2Proof/Word.lean ====
section
/-! DEFINITION. The two sizes of value the block works on (00_scope.md R6): 16-bit words and 8-bit bytes. -/

namespace Sys2Proof

/-- A 16-bit value: ACC, VACC, RX, STATUS, command words and response words (R6). -/
abbrev Word := BitVec 16

/-- An 8-bit value: HOLD1, HOLD0 and the operand D (R6). -/
abbrev Byte := BitVec 8

end Sys2Proof
end

