-- ==== Sys2Proof/Config.lean ====
section
/-! DEFINITION. The implementation parameters of 00_scope.md R5. All but `CNT_W` are fixed constants. -/

namespace Sys2Proof

/-- R5, §4.1 "initialize accumulator to 0xFFFF". -/
def Config.initialAcc : Word := 0xFFFF

/-- R5, §4.1 "XOR with 0xA001": the feedback constant of the right-shifting form. -/
def Config.feedback : Word := 0xA001

/-- R5, §4.1 "perform 8 iterations". -/
def Config.iterations : Nat := 8

/-- R5: the minimum frame length for a valid checksum. -/
def Config.minFrame : Nat := 4

/-- R5, D7: the parameter `CNT_W`, the width of CNT, 3 ≤ CNT_W ≤ 16. There is one name for each
legal width, so a machine with CNT_W < 3 (DV-CNT-3) cannot be written down. -/
inductive CntW where
  | bits3 | bits4 | bits5 | bits6 | bits7 | bits8 | bits9
  | bits10 | bits11 | bits12 | bits13 | bits14 | bits15 | bits16
  deriving DecidableEq, Repr

/-- The number of bits a `CntW` stands for. -/
def CntW.width : CntW → Nat
  | .bits3 => 3 | .bits4 => 4 | .bits5 => 5 | .bits6 => 6 | .bits7 => 7
  | .bits8 => 8 | .bits9 => 9 | .bits10 => 10 | .bits11 => 11 | .bits12 => 12
  | .bits13 => 13 | .bits14 => 14 | .bits15 => 15 | .bits16 => 16

/-- Every legal width, narrowest first. -/
def CntW.all : List CntW :=
  [.bits3, .bits4, .bits5, .bits6, .bits7, .bits8, .bits9,
   .bits10, .bits11, .bits12, .bits13, .bits14, .bits15, .bits16]

/-- R5: the parameter check. A width below 3 or above 16 is rejected. -/
def CntW.ofNat? (n : Nat) : Option CntW := CntW.all.find? (fun c => c.width == n)

/-- R5: the default, CNT_W = 16. -/
def CntW.default : CntW := .bits16

end Sys2Proof
end

