-- ==== Sys2Proof/Machine/Crc.lean ====
section
/-! DEFINITION. The CRC algorithm as pure functions (40_crc_commands.md R60 to R63) and the byte sequences they work on
(00_scope.md R8). -/

namespace Sys2Proof.Machine

/-- R60: one iteration. "if the low bit is set, shift right and XOR with 0xA001, else shift right". -/
def crcBit (a : Word) : Word :=
  if a.getLsbD 0 then (a >>> 1) ^^^ Config.feedback else a >>> 1

/-- `n` iterations of R60's step, one after another. -/
def crcBits : Nat → Word → Word
  | 0, a => a
  | n + 1, a => crcBits n (crcBit a)

/-- R61: XOR the byte into the low byte of the accumulator, then 8 iterations. -/
def crcByte (a : Word) (b : Byte) : Word := crcBits Config.iterations (a ^^^ b.setWidth 16)

/-- R62: the CRC of a byte sequence, first byte first, with no final XOR. -/
def compute (s : List Byte) : Word := s.foldl crcByte Config.initialAcc

/-- R8: `s[-k]`, counted from 1 at the last element. 0x00 where there is no such element, which R63
never reads (log entry 8). -/
def fromEnd (k : Nat) (s : List Byte) : Byte := s.reverse.getD (k - 1) 0x00

/-- R8: `s[:-2]`, every element except the last two. -/
def allButLastTwo (s : List Byte) : List Byte := s.dropLast.dropLast

/-- R8: `little_endian_u16([lo, hi])`, the second byte in bits 15:8. -/
def littleEndian (lo hi : Byte) : Word := lo.setWidth 16 ||| (hi.setWidth 16 <<< 8)

/-- R63: the checksum of a frame. Fails closed below 4 bytes. -/
def verify (f : List Byte) : Bool :=
  if f.length < Config.minFrame then false
  else compute (allButLastTwo f) == littleEndian (fromEnd 2 f) (fromEnd 1 f)

/-- R33: the two bytes a host appends for a checksum value, bits 7:0 first and bits 15:8 second. -/
def trailer (c : Word) : List Byte := [c.extractLsb' 0 8, c.extractLsb' 8 8]

end Sys2Proof.Machine
end

