-- ==== Sys2Proof/Syntax.lean ====
section
/-! DEFINITION. The command set (30_encoding.md R42), the host's moves (20_memory.md R30, 70_reset_and_hazards.md R100)
and the lines of the assembler (30_encoding.md R48, R49) as data. -/

namespace Sys2Proof

/-- The eight commands of R42, one constructor per row of spec/opcode_table.json. -/
inductive Instr where
  | nop
  | init
  | feed (d : Byte)
  | rdCrc
  | rdStatus
  | rdCnt
  | rdVcrc
  | rdRx
  deriving DecidableEq, Repr

/-- What a command word decodes to (R41): exactly one of the eight commands, or IllegalCommand. -/
inductive Decoded where
  | command (i : Instr)
  | illegalCommand
  deriving DecidableEq, Repr

/-- A move of the host at the block's inputs: a word on the command port (R30), or reset, which takes
effect between commands (R95, R100). -/
inductive HostEvent where
  | command (w : Word)
  | reset
  deriving DecidableEq, Repr

/-- The pseudo-instructions of R49, each with the bytes written after it. -/
inductive Pseudo where
  | crc16 (bs : List Byte)
  | verify (bs : List Byte)
  | feeds (bs : List Byte)
  deriving DecidableEq, Repr

/-- One line of assembler text (R48): nothing but blanks and a comment, a command, a
pseudo-instruction, or a raw `.word`. -/
inductive SourceLine where
  | blank
  | command (i : Instr)
  | pseudo (p : Pseudo)
  | raw (w : Word)
  deriving DecidableEq, Repr

end Sys2Proof
end

