-- ==== Sys2Proof/WellFormed.lean ====
section
/-! DEFINITION. What is well formed: an instruction's operand (30_encoding.md R43) and a command word (30_encoding.md R44). -/

namespace Sys2Proof

/-- R43: the operand of FEED is an unsigned byte, 0x00 to 0xFF. The type of `d` already says so, and the
other commands have no operand, so every `Instr` passes: an ill-formed command cannot be written down.
An ill-formed WORD can, and the three checks below are about words. -/
def Instr.wellFormed : Instr → Bool
  | .nop => true
  | .init => true
  | .feed d => d.toNat ≤ 0xFF
  | .rdCrc => true
  | .rdStatus => true
  | .rdCnt => true
  | .rdVcrc => true
  | .rdRx => true

/-- R44 (a), passed: RSV, bits 15:12, is zero. -/
def reservedIsZero (w : Word) : Bool := w.toNat / 0x1000 == 0

/-- R44 (b), passed: OP, bits 11:8, is not one of 0x8 to 0xF. -/
def operationExists (w : Word) : Bool := w.toNat / 0x100 % 0x10 < 8

/-- R44 (c), passed: D, bits 7:0, is zero unless OP is FEED's 0x2. -/
def dataAllowed (w : Word) : Bool := w.toNat / 0x100 % 0x10 == 2 || w.toNat % 0x100 == 0

/-- R44: a word is legal when none of the three grounds for illegality holds. Written from R44's list
and not from the decoder, so that the two can be held against each other. -/
def legalWord (w : Word) : Bool := reservedIsZero w && operationExists w && dataAllowed w

end Sys2Proof
end

