-- ==== Sys2Proof/Decode.lean ====
section
/-! DEFINITION. Decoding (30_encoding.md R40, R41), the opcode map as data (30_encoding.md R42) and the encoder. -/

namespace Sys2Proof

/-- R40: RSV, bits 15:12. -/
def fieldRsv (w : Word) : BitVec 4 := w.extractLsb' 12 4

/-- R40: OP, bits 11:8. -/
def fieldOp (w : Word) : BitVec 4 := w.extractLsb' 8 4

/-- R40: D, bits 7:0. -/
def fieldD (w : Word) : Byte := w.extractLsb' 0 8

/-- R41, the last line of its pseudocode: the operations that take no data byte. OP = 0x2 and OP ≥ 0x8
never reach it from `decode`. -/
def decodeOp (op : BitVec 4) : Decoded :=
  match op.toNat with
  | 0x0 => .command .nop
  | 0x1 => .command .init
  | 0x3 => .command .rdCrc
  | 0x4 => .command .rdStatus
  | 0x5 => .command .rdCnt
  | 0x6 => .command .rdVcrc
  | 0x7 => .command .rdRx
  | _ => .illegalCommand

/-- R41: the total decoder, test by test as the rule writes it. -/
def decode (w : Word) : Decoded :=
  if fieldRsv w ≠ 0x0 then .illegalCommand
  else if fieldOp w = 0x2 then .command (.feed (fieldD w))
  else if fieldOp w > 0x7 then .illegalCommand
  else if fieldD w ≠ 0x00 then .illegalCommand
  else decodeOp (fieldOp w)

/-- One row of the opcode map: a word belongs to the row exactly when `(w &&& mask) = pattern`. -/
structure OpcodeRow where
  mnemonic : String
  pattern : Word
  mask : Word
  deriving DecidableEq, Repr

/-- R42: the opcode map (spec/opcode_table.json), its match and mask columns. -/
def opcodeMap : List OpcodeRow :=
  [⟨"NOP", 0x0000, 0xFFFF⟩,
   ⟨"INIT", 0x0100, 0xFFFF⟩,
   ⟨"FEED", 0x0200, 0xFF00⟩,
   ⟨"RD_CRC", 0x0300, 0xFFFF⟩,
   ⟨"RD_STATUS", 0x0400, 0xFFFF⟩,
   ⟨"RD_CNT", 0x0500, 0xFFFF⟩,
   ⟨"RD_VCRC", 0x0600, 0xFFFF⟩,
   ⟨"RD_RX", 0x0700, 0xFFFF⟩]

/-- R42: does the word belong to the row? -/
def OpcodeRow.covers (r : OpcodeRow) (w : Word) : Bool := (w &&& r.mask) == r.pattern

/-- R42: the mnemonic of a command, as the table spells it. -/
def Instr.mnemonic : Instr → String
  | .nop => "NOP"
  | .init => "INIT"
  | .feed _ => "FEED"
  | .rdCrc => "RD_CRC"
  | .rdStatus => "RD_STATUS"
  | .rdCnt => "RD_CNT"
  | .rdVcrc => "RD_VCRC"
  | .rdRx => "RD_RX"

/-- R42 and R43: the word of a command, its match value with FEED's byte in bits 7:0. -/
def encode : Instr → Word
  | .nop => 0x0000
  | .init => 0x0100
  | .feed d => 0x0200 ||| d.setWidth 16
  | .rdCrc => 0x0300
  | .rdStatus => 0x0400
  | .rdCnt => 0x0500
  | .rdVcrc => 0x0600
  | .rdRx => 0x0700

/-- The command word whose bits the opcode table numbers `w`, taken at `nbits` bits. Every command is
one 16-bit word (R40), so a number that needs more bits is no command word. -/
def tableWord (nbits w : Nat) : Option Word :=
  if w % 2 ^ nbits < 2 ^ 16 then some (BitVec.ofNat 16 (w % 2 ^ nbits)) else none

/-- The instruction the decoder reads from the table's bits. Command words have no byte order (R34), so
the table's bit numbers are the word's own. -/
def decodeTableWord (nbits w : Nat) : Option Instr :=
  match tableWord nbits w with
  | none => none
  | some v =>
    match decode v with
    | .command i => some i
    | .illegalCommand => none

end Sys2Proof
end

