-- ==== Sys2Proof/Machine/State.lean ====
section
/-! DEFINITION. The state of the block (10_state.md R10), its two ports (20_memory.md R30), why a step could stop, and reset
(70_reset_and_hazards.md R100). -/

namespace Sys2Proof.Machine

/-- Everything the spec gives the machine. The six registers `acc` to `err` are R10's tuple. `cntW` is
the parameter CNT_W (R5), and `input` and `responses` are what stands at the two ports and the reset
input (R30). -/
structure State where
  /-- CNT_W (R5): a parameter of the machine. No step writes it (log entry 1). -/
  cntW : CntW
  /-- ACC (R11): the CRC of every byte fed. -/
  acc : Word
  /-- VACC (R12): the CRC of every byte fed but the last two. -/
  vacc : Word
  /-- HOLD1 (R13): the second-to-last byte fed. -/
  hold1 : Byte
  /-- HOLD0 (R13): the last byte fed. -/
  hold0 : Byte
  /-- CNT (R14): the number of bytes fed, saturating at CNT_MAX. CNT_W bits wide in hardware, at most 16
  (log entry 2). -/
  cnt : Word
  /-- ERR (R15): the sticky illegal-command flag. -/
  err : Bool
  /-- The host's moves the block has not accepted yet, next first (R30, R37; log entry 3). -/
  input : List HostEvent
  /-- The response words placed on the response port since reset, oldest first (R9, R47; log entry 5). -/
  responses : List Word
  deriving DecidableEq, Repr

/-- Reasons for the machine to stop with a fault: none. The spec defines the outcome of every word,
illegal ones included (R91), and the block never stops (R91, D16), so nothing raises a fault. Safe: a
step that cannot fault allows no behaviour the spec does not give. -/
inductive Fault where
  deriving DecidableEq, Repr

/-- Reasons to refuse an instruction. -/
inductive Refusal where
  /-- Raised by an arm of `exec` whose instruction has no meaning yet. No arm does: every command is
  modelled. Safe: a refusal proves nothing of the run. -/
  | notModelled (mnemonic : String)
  deriving DecidableEq, Repr

/-- R100: the state right after reset of a machine whose CNT is `c` bits wide, with nothing at its ports. -/
def State.resetFor (c : CntW) : State where
  cntW := c
  acc := 0xFFFF
  vacc := 0xFFFF
  hold1 := 0x00
  hold0 := 0x00
  cnt := 0
  err := false
  input := []
  responses := []

/-- R100, at the default CNT_W = 16 (R5). -/
def State.reset : State := State.resetFor CntW.default

end Sys2Proof.Machine
end

