-- ==== Sys2Proof/Machine/Operands.lean ====
section
/-! DEFINITION. The values a command takes in or gives out: RX (10_state.md R16) and CNT as a word (41_read_commands.md R82).
FEED's operand D (30_encoding.md R43) is zero-extended in `crcByte`. -/

namespace Sys2Proof.Machine

/-- R16: RX, the trailer as received: HOLD1 in bits 7:0, HOLD0 in bits 15:8. -/
def rx (s : State) : Word := s.hold1.setWidth 16 ||| (s.hold0.setWidth 16 <<< 8)

/-- R82: `zext_16(CNT)`. CNT is held at 16 bits already (log entry 2), so no bit is added or lost. -/
def cntWord (s : State) : Word := s.cnt

/-- R14: the ceiling CNT_MAX = 2^CNT_W − 1. -/
def cntMax (c : CntW) : Nat := 2 ^ c.width - 1

/-- R14, R66: CNT after one more byte, `min(CNT + 1, CNT_MAX)`. -/
def nextCnt (c : CntW) (n : Word) : Word := BitVec.ofNat 16 (min (n.toNat + 1) (cntMax c))

end Sys2Proof.Machine
end

