-- ==== Sys2Proof/Machine/Flags.lean ====
section
/-! DEFINITION. The STATUS word and its bits, computed from the state (10_state.md R17 to R21). -/

namespace Sys2Proof.Machine

/-- R19: LEN4, the frame fed so far has the minimum valid length. -/
def flagLen4 (s : State) : Bool := Config.minFrame ≤ s.cnt.toNat

/-- R18: VALID, long enough and the trailer is the checksum of the bytes before it. -/
def flagValid (s : State) : Bool := flagLen4 s && s.vacc == rx s

/-- R20: SAT, CNT stands at its ceiling. -/
def flagSat (s : State) : Bool := s.cnt.toNat == cntMax s.cntW

/-- A flag as a 16-bit value, `zext_16` of one bit (R81). -/
def bitWord (b : Bool) : Word := (BitVec.ofBool b).setWidth 16

/-- R17, R81: STATUS. Bit 0 VALID, bit 1 LEN4, bit 2 ERR, bit 3 SAT, bits 15:4 zero (R21). -/
def status (s : State) : Word :=
  bitWord (flagValid s) ||| (bitWord (flagLen4 s) <<< 1) ||| (bitWord s.err <<< 2) ||| (bitWord (flagSat s) <<< 3)

end Sys2Proof.Machine
end

