-- ==== Sys2Proof/Machine/Ops.lean ====
section
/-! DEFINITION. The operations the commands are made of: responding (00_scope.md R9), starting a sequence
(40_crc_commands.md R65), taking in one byte (40_crc_commands.md R66), the one exception (60_exceptions.md R91), reset
(70_reset_and_hazards.md R100) and accepting the host's next move (20_memory.md R37). -/

namespace Sys2Proof.Machine

/-- R9: `respond(v)` places the response word on the response port, after those already given (R37). -/
def respond (v : Word) (s : State) : State := { s with responses := s.responses ++ [v] }

/-- R65: every register to its start value. -/
def startSequence (s : State) : State :=
  { s with
    acc := Config.initialAcc
    vacc := Config.initialAcc
    hold1 := 0x00
    hold0 := 0x00
    cnt := 0
    err := false }

/-- R66: one input byte through the accumulator, the hold pipeline, the lagging accumulator and the
counter. Every right-hand side reads the state before the command (R9). ERR is not written. -/
def takeByte (d : Byte) (s : State) : State :=
  { s with
    acc := crcByte s.acc d
    vacc := if 2 ≤ s.cnt.toNat then crcByte s.vacc s.hold1 else s.vacc
    hold1 := s.hold0
    hold0 := d
    cnt := nextCnt s.cntW s.cnt }

/-- R91: taking the one exception, IllegalCommand. ERR is set, the response is 0x0000, nothing else
changes. There is no return operation: the next command executes normally (R96). -/
def raiseIllegalCommand (s : State) : State := respond 0x0000 { s with err := true }

/-- R100: reset. The state of R100, with no response pending and no response word produced. The width of
CNT is the machine's own, and what the host sends later is not the block's (log entries 1, 3, 5). -/
def takeReset (s : State) : State := { State.resetFor s.cntW with input := s.input }

/-- R37: the host's next move, in the order sent, and the state in which it is accepted. -/
def nextEvent (s : State) : Option (HostEvent × State) :=
  match s.input with
  | [] => none
  | e :: rest => some (e, { s with input := rest })

end Sys2Proof.Machine
end

