-- ==== Sys2Proof/Machine/Control.lean ====
section
/-! DEFINITION. The commands that control the block or feed it: NOP, INIT, FEED (40_crc_commands.md R64 to R66). -/

namespace Sys2Proof.Machine

/-- R64: NOP. No register is written. Response 0x0000. -/
def execNop (s : State) : Host.Outcome State Fault Refusal := .next (respond 0x0000 s)

/-- R65: INIT. Start a new byte sequence and clear ERR. Response 0x0000. -/
def execInit (s : State) : Host.Outcome State Fault Refusal := .next (respond 0x0000 (startSequence s))

/-- R66: FEED D. Process one input byte. Response 0x0000. -/
def execFeed (d : Byte) (s : State) : Host.Outcome State Fault Refusal := .next (respond 0x0000 (takeByte d s))

end Sys2Proof.Machine
end

