-- ==== Sys2Proof/Machine/Read.lean ====
section
/-! DEFINITION. The read commands (41_read_commands.md R80 to R84). Each responds with a value and writes no register. -/

namespace Sys2Proof.Machine

/-- R80: RD_CRC responds ACC. -/
def execRdCrc (s : State) : Host.Outcome State Fault Refusal := .next (respond s.acc s)

/-- R81: RD_STATUS responds STATUS. Reading it does not clear ERR (R15). -/
def execRdStatus (s : State) : Host.Outcome State Fault Refusal := .next (respond (status s) s)

/-- R82: RD_CNT responds zext_16(CNT). -/
def execRdCnt (s : State) : Host.Outcome State Fault Refusal := .next (respond (cntWord s) s)

/-- R83: RD_VCRC responds VACC. -/
def execRdVcrc (s : State) : Host.Outcome State Fault Refusal := .next (respond s.vacc s)

/-- R84: RD_RX responds RX. -/
def execRdRx (s : State) : Host.Outcome State Fault Refusal := .next (respond (rx s) s)

end Sys2Proof.Machine
end

