-- ==== Sys2Proof/Machine/Dispatch.lean ====
section
/-! DEFINITION. What each command does to the state: one arm per constructor of `Instr`. -/

namespace Sys2Proof.Machine

/-- The meaning of every command of 30_encoding.md R42. -/
def exec (i : Instr) (s : State) : Host.Outcome State Fault Refusal :=
  match i with
  | .nop => Sys2Proof.Machine.execNop s
  | .init => Sys2Proof.Machine.execInit s
  | .feed d => Sys2Proof.Machine.execFeed d s
  | .rdCrc => Sys2Proof.Machine.execRdCrc s
  | .rdStatus => Sys2Proof.Machine.execRdStatus s
  | .rdCnt => Sys2Proof.Machine.execRdCnt s
  | .rdVcrc => Sys2Proof.Machine.execRdVcrc s
  | .rdRx => Sys2Proof.Machine.execRdRx s

end Sys2Proof.Machine
end

