-- ==== Sys2Proof/Machine/Step.lean ====
section
/-! DEFINITION. One step of the machine: the host's next move, taken whole (20_memory.md R36 to R38). -/

namespace Sys2Proof.Machine

/-- One step. A command word is decoded and its command executed; an illegal word raises IllegalCommand
(R41, R91); reset leaves R100's state; and with no move of the host the block keeps its state, since it
never stops on its own (D16, log entry 4). -/
def step (s : State) : Host.Outcome State Fault Refusal :=
  match nextEvent s with
  | none => .next s
  | some (.reset, s') => .next (takeReset s')
  | some (.command w, s') =>
    match decode w with
    | .command i => exec i s'
    | .illegalCommand => .next (raiseIllegalCommand s')

/-- `s` with the word whose bits the opcode table numbers `w` as the host's very next move, ahead of the
moves already waiting. A number that is no 16-bit word (none of the table's rows) leaves `s` as it is. -/
def State.withFetchWord (s : State) (nbits w : Nat) : State :=
  match tableWord nbits w with
  | none => s
  | some v => { s with input := .command v :: s.input }

end Sys2Proof.Machine
end

