-- ==== Sys2Proof/Machine/Assembler.lean ====
section
/-! DEFINITION. The assembler syntax and the pseudo-instructions (30_encoding.md R48, R49). Text is a list of characters.
`none` is an assembly error, which encodes nothing. What R48 leaves open about a line (blanks, letter case of hex
digits, blank lines) is fixed by log entry 7, and what an error in one line does to the others by log entry 10. -/

namespace Sys2Proof.Machine

/-- R49: the expansion of a pseudo-instruction. -/
def expand : Pseudo → List Instr
  | .crc16 bs => [.init] ++ bs.map .feed ++ [.rdCrc]
  | .verify bs => [.init] ++ bs.map .feed ++ [.rdStatus]
  | .feeds bs => bs.map .feed

/-- R48, R49: the words a line stands for, in order. -/
def lineWords : SourceLine → List Word
  | .blank => []
  | .command i => [encode i]
  | .pseudo p => (expand p).map encode
  | .raw w => [w]

/-- A decimal digit's value. -/
def decDigit (c : Char) : Option Nat :=
  if 48 ≤ c.toNat ∧ c.toNat ≤ 57 then some (c.toNat - 48) else none

/-- A hexadecimal digit's value, in either letter case. -/
def hexDigit (c : Char) : Option Nat :=
  if 65 ≤ c.toNat ∧ c.toNat ≤ 70 then some (c.toNat - 55)
  else if 97 ≤ c.toNat ∧ c.toNat ≤ 102 then some (c.toNat - 87)
  else decDigit c

/-- The value of digits written after the value `acc`, most significant first. -/
def digitsFrom (digit : Char → Option Nat) (base : Nat) : Nat → List Char → Option Nat
  | acc, [] => some acc
  | acc, c :: cs => (digit c).bind fun v => digitsFrom digit base (acc * base + v) cs

/-- R48: a byte literal, `0x` and one or two hex digits, or a decimal number 0 to 255. -/
def byteLiteral : List Char → Option Byte
  | [] => none
  | '0' :: 'x' :: hs =>
    if hs.length = 1 ∨ hs.length = 2 then (digitsFrom hexDigit 16 0 hs).map (BitVec.ofNat 8) else none
  | ds => (digitsFrom decDigit 10 0 ds).bind fun v => if v ≤ 255 then some (BitVec.ofNat 8 v) else none

/-- R48: the operand of `.word`, `0x` and four hex digits. -/
def wordLiteral : List Char → Option Word
  | '0' :: 'x' :: hs => if hs.length = 4 then (digitsFrom hexDigit 16 0 hs).map (BitVec.ofNat 16) else none
  | _ => none

/-- A character that separates: a space or a tab. -/
def isBlank (c : Char) : Bool := c == ' ' || c == '\t'

/-- The text without the blanks at its two ends. -/
def trimBlanks (l : List Char) : List Char := ((l.dropWhile isBlank).reverse.dropWhile isBlank).reverse

/-- The text between commas. -/
def splitCommas : List Char → List (List Char)
  | [] => [[]]
  | c :: cs =>
    if c = ',' then [] :: splitCommas cs
    else
      match splitCommas cs with
      | [] => [[c]]
      | t :: ts => (c :: t) :: ts

/-- The operands written after a mnemonic: none at all, or one between each two commas. -/
def operandTexts (l : List Char) : List (List Char) :=
  match trimBlanks l with
  | [] => []
  | c :: cs => (splitCommas (c :: cs)).map trimBlanks

/-- R48: a mnemonic that takes no operand, in upper case. -/
def plainMnemonic : List Char → Option Instr
  | ['N', 'O', 'P'] => some .nop
  | ['I', 'N', 'I', 'T'] => some .init
  | ['R', 'D', '_', 'C', 'R', 'C'] => some .rdCrc
  | ['R', 'D', '_', 'S', 'T', 'A', 'T', 'U', 'S'] => some .rdStatus
  | ['R', 'D', '_', 'C', 'N', 'T'] => some .rdCnt
  | ['R', 'D', '_', 'V', 'C', 'R', 'C'] => some .rdVcrc
  | ['R', 'D', '_', 'R', 'X'] => some .rdRx
  | _ => none

/-- R49: the name of a pseudo-instruction. -/
def pseudoMnemonic : List Char → Option (List Byte → Pseudo)
  | ['C', 'R', 'C', '1', '6'] => some .crc16
  | ['V', 'E', 'R', 'I', 'F', 'Y'] => some .verify
  | ['F', 'E', 'E', 'D', 'S'] => some .feeds
  | _ => none

/-- R48, R49: a line whose comment and outer blanks are gone, as its name and its operands. An unknown
name, an operand on a mnemonic that takes none, or an operand out of range is an assembly error. -/
def parseFields (name : List Char) (ops : List (List Char)) : Option SourceLine :=
  if name = ['F', 'E', 'E', 'D'] then
    match ops with
    | [o] => (byteLiteral o).map fun d => .command (.feed d)
    | _ => none
  else if name = ['.', 'w', 'o', 'r', 'd'] then
    match ops with
    | [o] => (wordLiteral o).map .raw
    | _ => none
  else
    match plainMnemonic name, pseudoMnemonic name with
    | some i, _ => if ops = [] then some (.command i) else none
    | none, some p => (ops.mapM byteLiteral).map fun bs => .pseudo (p bs)
    | none, none => none

/-- R48: one line of assembler text. `;` starts a comment that runs to the end of the line. -/
def parseLine (l : List Char) : Option SourceLine :=
  match trimBlanks (l.takeWhile (· != ';')) with
  | [] => some .blank
  | c :: cs => parseFields ((c :: cs).takeWhile (fun x => !isBlank x)) (operandTexts ((c :: cs).dropWhile (fun x => !isBlank x)))

/-- R48, R49: the words of a program, line after line. R48 says of a line in error only that it is not
encoded. That such a line leaves the whole program without words is the model's DESIGN CHOICE (log entry 10). -/
def assemble (ls : List (List Char)) : Option (List Word) :=
  (ls.mapM parseLine).map fun parsed => parsed.flatMap lineWords

/-- R48: the upper-case hex digit of a value below 16. -/
def hexChar (n : Nat) : Char := Char.ofNat (if n < 10 then n + 48 else n + 55)

/-- R48: how a command is written, FEED's byte with two hex digits. -/
def asmText : Instr → List Char
  | .nop => ['N', 'O', 'P']
  | .init => ['I', 'N', 'I', 'T']
  | .feed d => ['F', 'E', 'E', 'D', ' ', '0', 'x', hexChar (d.toNat / 16), hexChar (d.toNat % 16)]
  | .rdCrc => ['R', 'D', '_', 'C', 'R', 'C']
  | .rdStatus => ['R', 'D', '_', 'S', 'T', 'A', 'T', 'U', 'S']
  | .rdCnt => ['R', 'D', '_', 'C', 'N', 'T']
  | .rdVcrc => ['R', 'D', '_', 'V', 'C', 'R', 'C']
  | .rdRx => ['R', 'D', '_', 'R', 'X']

end Sys2Proof.Machine
end

