-- ==== Sys2Proof/Safety.lean ====
section
/-! DEFINITION. The terms the claims are stated in: runs (92_eei_decisions.md D16), the bytes fed since the last start
(40_crc_commands.md R69), what the registers then hold, and which states the block cannot tell apart (10_state.md R10). -/

namespace Sys2Proof.Machine

/-- The host makes one move and the block takes it. -/
def deliver (e : HostEvent) (s : State) : Host.Outcome State Fault Refusal := step { s with input := e :: s.input }

/-- The host's moves one after another, each taken before the next is made (R37). -/
def runEvents : List HostEvent → State → Host.Outcome State Fault Refusal
  | [], s => .next s
  | e :: es, s =>
    match deliver e s with
    | .next t => runEvents es t
    | .fault r => .fault r
    | .refused r => .refused r

/-- D16: a run is a finite list of command words applied to a start state. -/
def runWords (ws : List Word) (s : State) : Host.Outcome State Fault Refusal := runEvents (ws.map .command) s

/-- A run of commands given as commands. -/
def runCommands (is : List Instr) (s : State) : Host.Outcome State Fault Refusal := runWords (is.map encode) s

/-- R47: the response table, as a function of what the word decodes to and the state before it. -/
def responseWord : Decoded → State → Word
  | .command .nop, _ => 0x0000
  | .command .init, _ => 0x0000
  | .command (.feed _), _ => 0x0000
  | .command .rdCrc, s => s.acc
  | .command .rdStatus, s => status s
  | .command .rdCnt, s => s.cnt
  | .command .rdVcrc, s => s.vacc
  | .command .rdRx, s => rx s
  | .illegalCommand, _ => 0x0000

/-- R69: the bytes that a list of command words feeds, in order. -/
def fedBytes (ws : List Word) : List Byte :=
  ws.filterMap fun w =>
    match decode w with
    | .command (.feed d) => some d
    | _ => none

/-- R102: the bytes fed since the last INIT or reset, after one more move of the host. -/
def historyAfter (e : HostEvent) (bs : List Byte) : List Byte :=
  match e with
  | .reset => []
  | .command w =>
    match decode w with
    | .command .init => []
    | .command (.feed d) => bs ++ [d]
    | _ => bs

/-- R69: the registers hold what the bytes `bs`, fed since the last INIT or reset, make them hold. For
fewer than two bytes the missing HOLD bytes are the start value 0x00 and VACC is `compute []`. -/
structure Tracks (bs : List Byte) (s : State) : Prop where
  acc : s.acc = compute bs
  vacc : s.vacc = compute (allButLastTwo bs)
  hold1 : s.hold1 = fromEnd 2 bs
  hold0 : s.hold0 = fromEnd 1 bs
  cnt : s.cnt.toNat = min bs.length (cntMax s.cntW)

/-- R14: CNT fits its CNT_W bits. -/
def CntFits (s : State) : Prop := s.cnt.toNat ≤ cntMax s.cntW

/-- R10: two states of machines of one CNT_W whose six registers agree. -/
structure SameRegisters (s t : State) : Prop where
  cntW : s.cntW = t.cntW
  acc : s.acc = t.acc
  vacc : s.vacc = t.vacc
  hold1 : s.hold1 = t.hold1
  hold0 : s.hold0 = t.hold0
  cnt : s.cnt = t.cnt
  err : s.err = t.err

end Sys2Proof.Machine
end

