-- ==== Sys2Proof/Certificates/Slice0/Obligations.lean ====
section
/-! DEFINITION. What is claimed of the model. Statements only: nothing is proved here. Each docstring names the rule it
formalises. -/

open Sys2Proof Sys2Proof.Machine

/-! ## Encoding -/

/-- 30_encoding.md R42, 95_test_vectors.md DV-DEC: words written out from R40's fields decode to what they stand for. -/
def Obligations.WordsFromTheFormatDecode : Prop :=
  decode 0b0000000000000000 = .command .nop ∧
  decode 0b0000000100000000 = .command .init ∧
  decode 0b0000001000110001 = .command (.feed 0x31) ∧
  decode 0b0000001011111111 = .command (.feed 0xFF) ∧
  decode 0b0000001100000000 = .command .rdCrc ∧
  decode 0b0000010000000000 = .command .rdStatus ∧
  decode 0b0000010100000000 = .command .rdCnt ∧
  decode 0b0000011000000000 = .command .rdVcrc ∧
  decode 0b0000011100000000 = .command .rdRx ∧
  decode 0b0001001000000000 = .illegalCommand ∧
  decode 0b0000100000000000 = .illegalCommand ∧
  decode 0b0000000000000001 = .illegalCommand

/-- R41, R42: a word decodes to a command exactly when it is that command's word, for every command and
every operand: no bit of an encoding is dropped and no second word has the meaning. -/
def Obligations.DecodeInvertsEncode : Prop :=
  ∀ (w : Word) (i : Instr), decode w = .command i ↔ w = encode i

/-- R40, R41: decoding of a word given by its three fields, with the tests in any order. -/
def Obligations.DecodeByFields : Prop :=
  ∀ (rsv op : BitVec 4) (d : BitVec 8),
    (rsv ≠ 0 → decode (rsv ++ op ++ d) = .illegalCommand) ∧
    (rsv = 0 → op = 0x2 → decode (rsv ++ op ++ d) = .command (.feed d)) ∧
    (0x7 < op.toNat → decode (rsv ++ op ++ d) = .illegalCommand) ∧
    (op ≠ 0x2 → d ≠ 0x00 → decode (rsv ++ op ++ d) = .illegalCommand) ∧
    (rsv = 0 → d = 0x00 →
      (op = 0x0 → decode (rsv ++ op ++ d) = .command .nop) ∧
      (op = 0x1 → decode (rsv ++ op ++ d) = .command .init) ∧
      (op = 0x3 → decode (rsv ++ op ++ d) = .command .rdCrc) ∧
      (op = 0x4 → decode (rsv ++ op ++ d) = .command .rdStatus) ∧
      (op = 0x5 → decode (rsv ++ op ++ d) = .command .rdCnt) ∧
      (op = 0x6 → decode (rsv ++ op ++ d) = .command .rdVcrc) ∧
      (op = 0x7 → decode (rsv ++ op ++ d) = .command .rdRx))

/-- R42: the match and mask columns say which words a command has, and the legal words are the 263 the
rule lists. -/
def Obligations.LegalWordsAreThoseOfTheMap : Prop :=
  (∀ w : Word,
    (decode w = .command .nop ↔ w &&& 0xFFFF = 0x0000) ∧
    (decode w = .command .init ↔ w &&& 0xFFFF = 0x0100) ∧
    ((∃ d, decode w = .command (.feed d)) ↔ w &&& 0xFF00 = 0x0200) ∧
    (decode w = .command .rdCrc ↔ w &&& 0xFFFF = 0x0300) ∧
    (decode w = .command .rdStatus ↔ w &&& 0xFFFF = 0x0400) ∧
    (decode w = .command .rdCnt ↔ w &&& 0xFFFF = 0x0500) ∧
    (decode w = .command .rdVcrc ↔ w &&& 0xFFFF = 0x0600) ∧
    (decode w = .command .rdRx ↔ w &&& 0xFFFF = 0x0700) ∧
    (decode w ≠ .illegalCommand ↔
      w ∈ [0x0000, 0x0100, 0x0300, 0x0400, 0x0500, 0x0600, 0x0700] ∨ (0x0200 ≤ w.toNat ∧ w.toNat ≤ 0x02FF))) ∧
  (∃ l : List Word, l.Nodup ∧ l.length = 263 ∧ ∀ w, w ∈ l ↔ decode w ≠ .illegalCommand) ∧
  2 ^ 16 - 263 = 65273

/-- R42: the rows of the opcode map never overlap, and a legal word's row names its command. -/
def Obligations.OneMapRowPerLegalWord : Prop :=
  (∀ w i, decode w = .command i → ∃ r ∈ opcodeMap, r.covers w = true ∧ r.mnemonic = i.mnemonic) ∧
  (∀ w, decode w = .illegalCommand → ∀ r ∈ opcodeMap, r.covers w = false) ∧
  (∀ w, ∀ r ∈ opcodeMap, ∀ r' ∈ opcodeMap, r.covers w = true → r'.covers w = true → r = r')

/-- R44: the three grounds on which a word is illegal, and what every illegal word does. -/
def Obligations.IllegalOnThreeGroundsOnly : Prop :=
  ∀ w : Word,
    (decode w = .illegalCommand ↔
      w.toNat / 0x1000 ≠ 0 ∨
      8 ≤ w.toNat / 0x100 % 0x10 ∨
      (w.toNat / 0x100 % 0x10 ∈ [0x0, 0x1, 0x3, 0x4, 0x5, 0x6, 0x7] ∧ w.toNat % 0x100 ≠ 0)) ∧
    (legalWord w = true ↔ decode w ≠ .illegalCommand) ∧
    (decode w = .illegalCommand → ∀ s : State,
      deliver (.command w) s = .next { s with err := true, responses := s.responses ++ [0x0000] })

/-- R48: every command's text assembles to its word, and the rule's own examples and errors. The blanks
and the letter case of hex digits are the model's choice (log entry 7). -/
def Obligations.AssemblerReadsItsOwnText : Prop :=
  (∀ i : Instr, assemble [asmText i] = some [encode i]) ∧
  (∀ (i : Instr) (comment : List Char), parseLine (asmText i ++ [';'] ++ comment) = some (.command i)) ∧
  assemble ["FEED 0x31".toList, "FEED 49".toList, "RD_CRC".toList, ".word 0x1801".toList] =
    some [0x0231, 0x0231, 0x0300, 0x1801] ∧
  parseLine "FEED 256".toList = none ∧
  parseLine "FEED".toList = none ∧
  parseLine "NOP 0".toList = none ∧
  parseLine "HALT".toList = none

/-! ## One step -/

/-- 20_memory.md R37, R38: a step takes the host's next word and executes the command it decodes to. -/
def Obligations.StepRunsTheDecodedCommand : Prop :=
  ∀ (s : State) (w : Word) (rest : List HostEvent) (i : Instr),
    s.input = .command w :: rest → decode w = .command i → step s = exec i { s with input := rest }

/-- The model's own way to place a word (log entry 3): the very next step runs it, in the state as it was. -/
def Obligations.PlacedWordRunsNext : Prop :=
  ∀ (s : State) (w : Nat),
    (∀ i, decodeTableWord 16 w = some i → step (s.withFetchWord 16 w) = exec i s) ∧
    (decodeTableWord 16 w = none → step (s.withFetchWord 16 w) = .next (raiseIllegalCommand s))

/-- 60_exceptions.md R91: an illegal word sets ERR, responds 0x0000 and changes nothing else, and the next
word is accepted as usual. That the words still waiting stand in a list is the model's (log entry 3). -/
def Obligations.IllegalCommandSetsErrOnly : Prop :=
  ∀ (s : State) (w : Word) (rest : List HostEvent),
    s.input = .command w :: rest → decode w = .illegalCommand →
      ∃ t, step s = .next t ∧
        t = { s with err := true, responses := s.responses ++ [0x0000], input := rest } ∧
        (∀ v later, rest = .command v :: later →
          step t = match decode v with
            | .command i => exec i { t with input := later }
            | .illegalCommand => .next { t with input := later, responses := t.responses ++ [0x0000] })

/-- 70_reset_and_hazards.md R100: the reset state of a machine of any CNT_W, value by value, with no
response pending, and its registers are those that INIT leaves. -/
def Obligations.ResetStateIsTheListedOne : Prop :=
  (∀ c : CntW,
    (State.resetFor c).acc = 0xFFFF ∧ (State.resetFor c).vacc = 0xFFFF ∧
    (State.resetFor c).hold1 = 0x00 ∧ (State.resetFor c).hold0 = 0x00 ∧
    (State.resetFor c).cnt = 0 ∧ (State.resetFor c).err = false ∧
    status (State.resetFor c) = 0x0000 ∧ rx (State.resetFor c) = 0x0000 ∧ (State.resetFor c).responses = []) ∧
  State.reset = State.resetFor .bits16 ∧
  (∀ s : State, ∃ t, exec .init s = .next t ∧ SameRegisters t (State.resetFor s.cntW))

/-- 70_reset_and_hazards.md R100, R101: reset as a move of the host, from any state and between any two
commands. That it keeps CNT_W and the moves still waiting is the model's (log entries 1, 3), and so is
that the responses given before it are gone from the state (log entry 5). -/
def Obligations.ResetIsTakenBetweenCommands : Prop :=
  ∀ (s : State) (rest : List HostEvent), s.input = .reset :: rest →
    step s = .next { State.resetFor s.cntW with input := rest }

/-- R91, 92_eei_decisions.md D16: the block never stops. Every step answers a next state, takes one move
of the host (the list of waiting moves is the model's, log entry 3), and with no move keeps the state
(the model's too, log entry 4). -/
def Obligations.StepAlwaysAnswersNext : Prop :=
  ∀ s : State, ∃ t, step s = .next t ∧ t.input = s.input.tail ∧ (s.input = [] → t = s)

/-- 10_state.md R10, the written-by column: which moves of the host can change which register. That no
move, reset among them, changes CNT_W or the moves still waiting is the model's (log entries 1, 3). -/
def Obligations.RegistersChangeOnlyByTheirWriters : Prop :=
  ∀ (e : HostEvent) (s t : State), deliver e s = .next t →
    t.cntW = s.cntW ∧ t.input = s.input ∧
    ((t.acc ≠ s.acc ∨ t.vacc ≠ s.vacc ∨ t.hold1 ≠ s.hold1 ∨ t.hold0 ≠ s.hold0 ∨ t.cnt ≠ s.cnt) →
      e = .reset ∨ e = .command 0x0100 ∨ ∃ d : Byte, e = .command (0x0200 ||| d.setWidth 16)) ∧
    (t.err ≠ s.err → e = .reset ∨ e = .command 0x0100 ∨ ∃ w, e = .command w ∧ decode w = .illegalCommand)

/-- 10_state.md R10, the read-by column: what one move of the host leaves in a register depends on no
register outside the ones that the move reads for it. -/
def Obligations.RegistersDependOnlyOnTheirReads : Prop :=
  ∀ (e : HostEvent) (s s' t t' : State), deliver e s = .next t → deliver e s' = .next t' → s.cntW = s'.cntW →
    (s.acc = s'.acc → t.acc = t'.acc) ∧
    (s.hold0 = s'.hold0 → t.hold0 = t'.hold0) ∧
    (s.hold0 = s'.hold0 → s.hold1 = s'.hold1 → t.hold1 = t'.hold1) ∧
    (s.cnt = s'.cnt → t.cnt = t'.cnt) ∧
    (s.vacc = s'.vacc → s.hold1 = s'.hold1 → s.cnt = s'.cnt → t.vacc = t'.vacc) ∧
    (s.err = s'.err → t.err = t'.err)

/-! ## The CRC functions -/

/-- 40_crc_commands.md R60. -/
def Obligations.CrcBitShiftsThenXors : Prop :=
  (∀ a : Word, a.getLsbD 0 = true → crcBit a = (a >>> 1) ^^^ 0xA001 ∧ (crcBit a).getLsbD 15 = true) ∧
  (∀ a : Word, a.getLsbD 0 = false → crcBit a = a >>> 1 ∧ (crcBit a).getLsbD 15 = false) ∧
  (∃ a : Word, a.getLsbD 0 = true ∧ crcBit a ≠ (a ^^^ 0xA001) >>> 1) ∧
  crcBit 0x0001 = 0xA001 ∧ crcBit 0xFFFF = 0xDFFE

/-- 40_crc_commands.md R61. -/
def Obligations.CrcByteIsXorThenEightSteps : Prop :=
  (∀ (a : Word) (b : Byte), crcByte a b = crcBit^[8] (a ^^^ b.setWidth 16)) ∧ crcByte 0xFFFF 0x01 = 0x807E

/-- 40_crc_commands.md R62. -/
def Obligations.ComputeFoldsBytesInOrder : Prop :=
  compute [] = 0xFFFF ∧
  (∀ (s : List Byte) (b : Byte), compute (s ++ [b]) = crcByte (compute s) b) ∧
  compute [0x01, 0x04, 0x00, 0x00, 0x00, 0x01] = 0xCA31

/-- 40_crc_commands.md R63: the checksum round-trip law, by position in the frame. -/
def Obligations.VerifyComparesDataWithTrailer : Prop :=
  (∀ f : List Byte, f.length < 4 → verify f = false) ∧
  (∀ f : List Byte, 4 ≤ f.length →
    verify f = (compute (f.take (f.length - 2)) ==
      ((f.getD (f.length - 2) 0).setWidth 16 ||| ((f.getD (f.length - 1) 0).setWidth 16 <<< 8)))) ∧
  verify [0xFF, 0xFF] = false ∧ compute [] = littleEndian 0xFF 0xFF

/-- 40_crc_commands.md R67: `crc_bit` is linear over GF(2) and a bijection, and its shift clears bit 15. -/
def Obligations.CrcBitIsLinearAndBijective : Prop :=
  (∀ a b : Word, crcBit (a ^^^ b) = crcBit a ^^^ crcBit b) ∧
  Function.Bijective crcBit ∧
  (∀ a : Word, (a >>> 1).getLsbD 15 = false)

/-- 40_crc_commands.md R68: 0xA001 is the bit reversal of 0x8005. -/
def Obligations.FeedbackIsReversedPolynomial : Prop :=
  ∀ k, k < 16 → Config.feedback.getLsbD k = (0x8005 : Word).getLsbD (15 - k)

/-- 40_crc_commands.md R70: the residue theorem, and VALID exactly when ACC is zero. -/
def Obligations.ResidueIsZeroExactlyForValidTrailers : Prop :=
  (∀ (d : List Byte) (lo hi : Byte),
    compute (d ++ [lo, hi]) = 0x0000 ↔ compute d = lo.setWidth 16 ||| (hi.setWidth 16 <<< 8)) ∧
  (∀ d : List Byte,
    compute (d ++ [(compute d).extractLsb' 0 8, (compute d).extractLsb' 8 8]) = 0x0000) ∧
  (∀ (bs : List Byte) (s : State), Tracks bs s → 4 ≤ s.cnt.toNat →
    ((status s).getLsbD 0 = true ↔ s.acc = 0x0000))

/-- From R67 and R70: a change confined to one byte, or to two neighbouring bytes, changes the CRC,
whatever stands before and after. -/
def Obligations.ChangedNeighbouringBytesChangeTheCrc : Prop :=
  (∀ (p q : List Byte) (b b' : Byte), b ≠ b' → compute (p ++ [b] ++ q) ≠ compute (p ++ [b'] ++ q)) ∧
  (∀ (p q : List Byte) (lo hi lo' hi' : Byte), (lo, hi) ≠ (lo', hi') →
    compute (p ++ [lo, hi] ++ q) ≠ compute (p ++ [lo', hi'] ++ q))

/-! ## The commands -/

/-- 40_crc_commands.md R64. -/
def Obligations.NopOnlyResponds : Prop :=
  encode .nop = 0x0000 ∧
  (∀ s : State, exec .nop s = .next { s with responses := s.responses ++ [0x0000] }) ∧
  (∀ d : Byte, d ≠ 0x00 → decode (d.setWidth 16) = .illegalCommand)

/-- 40_crc_commands.md R65. -/
def Obligations.InitStartsASequence : Prop :=
  encode .init = 0x0100 ∧
  ∀ s : State, ∃ t, exec .init s = .next t ∧
    t = { s with
      acc := 0xFFFF, vacc := 0xFFFF, hold1 := 0x00, hold0 := 0x00, cnt := 0, err := false,
      responses := s.responses ++ [0x0000] } ∧
    status t = 0x0000 ∧ SameRegisters t (State.resetFor s.cntW)

/-- 40_crc_commands.md R66: the whole effect of FEED, every other field unchanged, and the rule's corner
cases. -/
def Obligations.FeedTakesOneByte : Prop :=
  (∀ d : Byte, encode (.feed d) = 0x0200 ||| d.setWidth 16) ∧
  (∀ (d : Byte) (s : State), exec (.feed d) s = .next { s with
    acc := crcByte s.acc d
    vacc := if s.cnt.toNat ≥ 2 then crcByte s.vacc s.hold1 else s.vacc
    hold1 := s.hold0
    hold0 := d
    cnt := BitVec.ofNat 16 (min (s.cnt.toNat + 1) (2 ^ s.cntW.width - 1))
    responses := s.responses ++ [0x0000] }) ∧
  crcByte 0xFFFF 0x00 = 0x40BF ∧ crcByte 0xFFFF 0xFF = 0x00FF

/-- 41_read_commands.md R80. -/
def Obligations.RdCrcRespondsAcc : Prop :=
  encode .rdCrc = 0x0300 ∧
  (∀ s : State, exec .rdCrc s = .next { s with responses := s.responses ++ [s.acc] }) ∧
  (∀ d : Byte, d ≠ 0x00 → decode (0x0300 ||| d.setWidth 16) = .illegalCommand) ∧
  (∀ (bs : List Byte) (s : State), Tracks bs s →
    exec .rdCrc s = .next { s with responses := s.responses ++ [compute bs] } ∧
    (verify bs = true → exec .rdCrc s = .next { s with responses := s.responses ++ [0x0000] })) ∧
  compute [] = 0xFFFF ∧ compute [0x01, 0x04, 0x00, 0x00, 0x00, 0x01] = 0xCA31

/-- 41_read_commands.md R81: the response as a sum of its bits, its corner cases and the values it can
take. -/
def Obligations.RdStatusRespondsStatus : Prop :=
  encode .rdStatus = 0x0400 ∧
  ∀ s : State, ∃ v : Word, exec .rdStatus s = .next { s with responses := s.responses ++ [v] } ∧
    v.toNat =
      (if s.cnt.toNat ≥ 4 ∧ s.vacc = (s.hold1.setWidth 16 ||| (s.hold0.setWidth 16 <<< 8)) then 1 else 0) +
      (if s.cnt.toNat ≥ 4 then 2 else 0) +
      (if s.err = true then 4 else 0) +
      (if s.cnt.toNat = 2 ^ s.cntW.width - 1 then 8 else 0) ∧
    (s.cnt.toNat < 4 → v &&& 0b11 = 0b00) ∧
    (s.cnt.toNat ≥ 4 → s.vacc ≠ rx s → v &&& 0b11 = 0b10) ∧
    (s.cnt.toNat ≥ 4 → s.vacc = rx s → v &&& 0b11 = 0b11) ∧
    v ∈ [0x0000, 0x0002, 0x0003, 0x0004, 0x0006, 0x0007, 0x000A, 0x000B, 0x000E, 0x000F] ∧
    (∀ bs : List Byte, Tracks bs s → v.getLsbD 3 = true → 2 ^ s.cntW.width - 1 ≤ bs.length)

/-- 41_read_commands.md R82. -/
def Obligations.RdCntRespondsCount : Prop :=
  encode .rdCnt = 0x0500 ∧
  (∀ s : State, exec .rdCnt s = .next { s with responses := s.responses ++ [s.cnt] }) ∧
  (∀ (bs : List Byte) (s : State), Tracks bs s →
    exec .rdCnt s = .next { s with
      responses := s.responses ++ [BitVec.ofNat 16 (min bs.length (2 ^ s.cntW.width - 1))] } ∧
    (2 ^ s.cntW.width - 1 ≤ bs.length → (status s).getLsbD 3 = true))

/-- 41_read_commands.md R83. -/
def Obligations.RdVcrcRespondsVacc : Prop :=
  encode .rdVcrc = 0x0600 ∧
  (∀ s : State, exec .rdVcrc s = .next { s with responses := s.responses ++ [s.vacc] }) ∧
  (∀ (bs : List Byte) (s : State), Tracks bs s →
    exec .rdVcrc s = .next { s with responses := s.responses ++ [compute (bs.take (bs.length - 2))] } ∧
    (s.cnt.toNat ≤ 2 → exec .rdVcrc s = .next { s with responses := s.responses ++ [0xFFFF] }))

/-- 41_read_commands.md R84. -/
def Obligations.RdRxRespondsTrailer : Prop :=
  encode .rdRx = 0x0700 ∧
  (∀ s : State, exec .rdRx s = .next { s with
    responses := s.responses ++ [s.hold1.setWidth 16 ||| (s.hold0.setWidth 16 <<< 8)] }) ∧
  (∀ (bs : List Byte) (s : State), Tracks bs s →
    (s.cnt.toNat = 0 → exec .rdRx s = .next { s with responses := s.responses ++ [0x0000] }) ∧
    (s.cnt.toNat = 1 → ∀ b, bs = [b] →
      exec .rdRx s = .next { s with responses := s.responses ++ [b.setWidth 16 <<< 8] }))

/-- 20_memory.md R37: a read twice in a row responds the same word twice and changes no register. -/
def Obligations.ReadsAreIdempotent : Prop :=
  ∀ (i : Instr) (s : State), i ∈ [Instr.rdCrc, .rdStatus, .rdCnt, .rdVcrc, .rdRx] →
    ∃ v t, exec i s = .next t ∧ t = { s with responses := s.responses ++ [v] } ∧
      exec i t = .next { s with responses := s.responses ++ [v, v] }

/-! ## STATUS, RX, ERR and CNT -/

/-- 10_state.md R17, R19, R20, R21: every bit of STATUS, its value at reset, and that RD_STATUS computes
it and no command writes it. -/
def Obligations.StatusBitsByField : Prop :=
  ∀ s : State,
    ((status s).getLsbD 0 = true ↔ 4 ≤ s.cnt.toNat ∧ s.vacc = rx s) ∧
    ((status s).getLsbD 1 = true ↔ 4 ≤ s.cnt.toNat) ∧
    (status s).getLsbD 2 = s.err ∧
    ((status s).getLsbD 3 = true ↔ s.cnt.toNat = 2 ^ s.cntW.width - 1) ∧
    (∀ k, 4 ≤ k → (status s).getLsbD k = false) ∧
    ((status s).getLsbD 1 = false → (status s).getLsbD 0 = false) ∧
    (∀ c, status (State.resetFor c) = 0x0000) ∧
    exec .rdStatus s = .next { s with responses := s.responses ++ [status s] }

/-- 10_state.md R16: RX, HOLD1 below HOLD0, is the trailer of the bytes fed once there are two. -/
def Obligations.RxIsTheReceivedTrailer : Prop :=
  (∀ s : State, rx s = s.hold1.setWidth 16 ||| (s.hold0.setWidth 16 <<< 8) ∧
    (rx s).extractLsb' 0 8 = s.hold1 ∧ (rx s).extractLsb' 8 8 = s.hold0 ∧
    exec .rdRx s = .next { s with responses := s.responses ++ [rx s] }) ∧
  (∀ (d : List Byte) (lo hi : Byte) (s : State), Tracks (d ++ [lo, hi]) s →
    rx s = lo.setWidth 16 ||| (hi.setWidth 16 <<< 8))

/-- 10_state.md R15: ERR is 1 after a step exactly when the step took an illegal word, or it was 1 and the
step took neither INIT nor reset. -/
def Obligations.ErrIsSticky : Prop :=
  State.reset.err = false ∧
  ∀ s t : State, step s = .next t →
    (t.err = true ↔
      (∃ w rest, s.input = .command w :: rest ∧ decode w = .illegalCommand) ∨
      (s.err = true ∧ (∀ rest, s.input ≠ .command 0x0100 :: rest) ∧ ∀ rest, s.input ≠ .reset :: rest))

/-- 60_exceptions.md R92, R93: a frame that is short or does not check raises nothing, it only reads
VALID = 0. -/
def Obligations.BadFramesRaiseNothing : Prop :=
  (∀ f : List Byte, f.length < 4 → verify f = false) ∧
  ∀ (d : Byte) (s : State), ∃ t, exec (.feed d) s = .next t ∧ t.err = s.err ∧
    (4 ≤ t.cnt.toNat → t.vacc ≠ rx t → (status t).getLsbD 0 = false ∧ (status t).getLsbD 1 = true) ∧
    (t.cnt.toNat < 4 → (status t).getLsbD 0 = false ∧ (status t).getLsbD 1 = false) ∧
    (status t).getLsbD 2 = (status s).getLsbD 2

/-- 60_exceptions.md R95, R96: any number of illegal words, with any reasons, do what one does but for
their responses, and INIT alone then recovers the start state. -/
def Obligations.ManyIllegalWordsAreAsOne : Prop :=
  ∀ (ws : List Word) (s : State), ws ≠ [] → (∀ w ∈ ws, decode w = .illegalCommand) →
    ∃ t, runWords ws s = .next t ∧
      t = { s with err := true, responses := s.responses ++ List.replicate ws.length 0x0000 } ∧
      ∃ u, exec .init t = .next u ∧ SameRegisters u (State.resetFor s.cntW)

/-- 10_state.md R14: CNT counts up to CNT_MAX, stays there, never wraps, and never loses the two tests
made of it. -/
def Obligations.CntSaturatesAndNeverWraps : Prop :=
  (∀ c : CntW, 3 ≤ c.width ∧ c.width ≤ 16) ∧
  ∀ (d : Byte) (s : State), CntFits s → ∃ t, exec (.feed d) s = .next t ∧ CntFits t ∧
    (s.cnt.toNat < 2 ^ s.cntW.width - 1 → t.cnt.toNat = s.cnt.toNat + 1) ∧
    (s.cnt.toNat = 2 ^ s.cntW.width - 1 → t.cnt = s.cnt) ∧
    s.cnt.toNat ≤ t.cnt.toNat ∧
    (2 ≤ s.cnt.toNat → 2 ≤ t.cnt.toNat) ∧ (4 ≤ s.cnt.toNat → 4 ≤ t.cnt.toNat)

/-- 00_scope.md R5, 95_test_vectors.md DV-CNT-3: the widths a machine can have, and why none is below 3. -/
def Obligations.CntWidthsAreThreeToSixteen : Prop :=
  (∀ n : Nat, (∃ c, CntW.ofNat? n = some c) ↔ 3 ≤ n ∧ n ≤ 16) ∧
  (∀ (n : Nat) (c : CntW), CntW.ofNat? n = some c → c.width = n) ∧
  State.reset.cntW.width = 16 ∧
  (∀ c : CntW, 4 < cntMax c) ∧ ¬ 4 ≤ 2 ^ 2 - 1

/-! ## Invariants -/

/-- R14: CNT stays within its CNT_W bits, in every step from every state that has it so. -/
def Obligations.StepKeepsCntWithinItsWidth : Prop :=
  (∀ c : CntW, CntFits (State.resetFor c)) ∧ ∀ s t : State, CntFits s → step s = .next t → CntFits t

/-- R69, R100: at reset, and right after INIT, the registers are those of no byte fed. -/
def Obligations.ResetAndInitTrackNoByte : Prop :=
  (∀ c : CntW, Tracks [] (State.resetFor c)) ∧ ∀ s t : State, exec .init s = .next t → Tracks [] t

/-- R66, R69, R100: in every step, from every state whose registers are those of some bytes fed, they
become those of the bytes with the step's own byte appended, or of no byte after INIT or reset. The list
of waiting moves and the idle step are the model's (log entries 3, 4). -/
def Obligations.StepKeepsTheRegistersOfTheBytesFed : Prop :=
  ∀ (bs : List Byte) (s : State), Tracks bs s →
    ∃ t, step s = .next t ∧
      Tracks (match s.input with
        | [] => bs
        | e :: _ => historyAfter e bs) t

/-- 10_state.md R12, R13: VACC and the two hold registers after the bytes of a frame. -/
def Obligations.VaccLagsTwoBytesBehind : Prop :=
  ∀ (bs : List Byte) (s : State), ∃ t, runCommands (.init :: bs.map .feed) s = .next t ∧
    t.vacc = compute (bs.take (bs.length - 2)) ∧
    (bs.length < 3 → t.vacc = 0xFFFF) ∧
    (∀ p a b, bs = p ++ [a, b] → t.hold1 = a ∧ t.hold0 = b) ∧
    (∀ b, bs = [b] → t.hold1 = 0x00 ∧ t.hold0 = b) ∧
    (bs = [] → t.hold1 = 0x00 ∧ t.hold0 = 0x00)

/-! ## Runs -/

/-- 40_crc_commands.md R69: the streaming theorem. -/
def Obligations.StreamingComputesTheFrame : Prop :=
  ∀ (start : State) (ws : List Word),
    ((∃ c, start = State.resetFor c) ∨ ∃ s, exec .init s = .next start) →
    (∀ w ∈ ws, decode w ≠ .command .init) →
    ∃ t, runWords ws start = .next t ∧ ∀ s, s = fedBytes ws →
      t.acc = compute s ∧
      t.cnt.toNat = min s.length (2 ^ t.cntW.width - 1) ∧
      (2 ≤ s.length →
        t.vacc = compute (s.take (s.length - 2)) ∧
        t.hold1 = s.getD (s.length - 2) 0 ∧
        t.hold0 = s.getD (s.length - 1) 0 ∧
        rx t = littleEndian (s.getD (s.length - 2) 0) (s.getD (s.length - 1) 0)) ∧
      (∀ b, s = [b] → t.vacc = 0xFFFF ∧ t.hold1 = 0x00 ∧ t.hold0 = b) ∧
      (s = [] → t.vacc = 0xFFFF ∧ t.hold1 = 0x00 ∧ t.hold0 = 0x00) ∧
      (status t).getLsbD 0 = verify s

/-- 70_reset_and_hazards.md R102: without INIT, frames one after another form one sequence. -/
def Obligations.FramesWithoutInitConcatenate : Prop :=
  ∀ (bs : List Byte) (s : State) (ws : List Word), Tracks bs s → (∀ w ∈ ws, decode w ≠ .command .init) →
    ∃ t, runWords ws s = .next t ∧ Tracks (bs ++ fedBytes ws) t ∧
      (status t).getLsbD 0 = verify (bs ++ fedBytes ws) ∧
      exec .rdCrc t = .next { t with responses := t.responses ++ [compute (bs ++ fedBytes ws)] }

/-- 30_encoding.md R47, 20_memory.md R37: every word of a run, legal or not, is answered once, in order,
with the word of R47's table in the state that the words before it left. The lists of waiting moves and
of responses given are the model's way to hold the two ports (log entries 3, 5). -/
def Obligations.EveryWordIsAnsweredOnceInOrder : Prop :=
  ∀ (ws : List Word) (s : State), ∃ t rs, runWords ws s = .next t ∧
    t.responses = s.responses ++ rs ∧ rs.length = ws.length ∧ t.input = s.input ∧
    ∀ k w, ws[k]? = some w →
      ∃ sk, runWords (ws.take k) s = .next sk ∧ rs[k]? = some (responseWord (decode w) sk)

/-- 30_encoding.md R49: the results of the three pseudo-instructions, from any state. -/
def Obligations.PseudoInstructionsGiveTheirResults : Prop :=
  ∀ (bs : List Byte) (s : State),
    (lineWords (.pseudo (.crc16 bs)) = [0x0100] ++ bs.map (fun b => 0x0200 ||| b.setWidth 16) ++ [0x0300] ∧
      ∃ t, runWords (lineWords (.pseudo (.crc16 bs))) s = .next t ∧
        t.responses = s.responses ++ List.replicate (bs.length + 1) 0x0000 ++ [compute bs]) ∧
    (lineWords (.pseudo (.verify bs)) = [0x0100] ++ bs.map (fun b => 0x0200 ||| b.setWidth 16) ++ [0x0400] ∧
      ∃ t v, runWords (lineWords (.pseudo (.verify bs))) s = .next t ∧
        t.responses = s.responses ++ List.replicate (bs.length + 1) 0x0000 ++ [v] ∧
        v.getLsbD 0 = verify bs) ∧
    (lineWords (.pseudo (.feeds bs)) = bs.map (fun b => 0x0200 ||| b.setWidth 16) ∧
      ∃ t, runWords (lineWords (.pseudo (.feeds bs))) s = .next t ∧
        t.responses = s.responses ++ List.replicate bs.length 0x0000)

/-- 20_memory.md R33, 70_reset_and_hazards.md R103: a host that computes a checksum, appends bits 7:0 and
then bits 15:8, and feeds the frame on, reads RX equal to that checksum, a zero accumulator, and VALID
once the frame has four bytes. -/
def Obligations.ChecksumAppendedLowByteFirstVerifies : Prop :=
  ∀ (d : List Byte) (s : State), ∃ t u, runCommands (.init :: d.map .feed) s = .next t ∧
    t.acc = compute d ∧
    runCommands [.feed (t.acc.extractLsb' 0 8), .feed (t.acc.extractLsb' 8 8)] t = .next u ∧
    rx u = t.acc ∧ u.acc = 0x0000 ∧ ((status u).getLsbD 0 = true ↔ 2 ≤ d.length)

/-- R65, R100: no later command tells reset from INIT: the same responses and the same registers follow. -/
def Obligations.ResetAndInitCannotBeToldApart : Prop :=
  ∀ (s : State) (ws : List Word), ∃ r i t u rs,
    deliver .reset s = .next r ∧ deliver (.command 0x0100) s = .next i ∧
    runWords ws r = .next t ∧ runWords ws i = .next u ∧
    t.responses = r.responses ++ rs ∧ u.responses = i.responses ++ rs ∧ SameRegisters t u

/-- 10_state.md R10, R23: the six registers are the whole state. Two machines that agree on them answer
every run alike, whatever else was sent or answered before. -/
def Obligations.RegistersDetermineEveryRun : Prop :=
  ∀ (s s' : State) (ws : List Word), SameRegisters s s' → ∃ t t' rs,
    runWords ws s = .next t ∧ runWords ws s' = .next t' ∧
    t.responses = s.responses ++ rs ∧ t'.responses = s'.responses ++ rs ∧ SameRegisters t t'

/-- The model's waiting moves of the host (log entry 3): stepping through them is sending them one at a
time, each after the one before is done (20_memory.md R36, R37). -/
def Obligations.WaitingMovesAreTakenOneByOne : Prop :=
  ∀ (es : List HostEvent) (s : State),
    Host.Core.run Sys2Proof.core es.length { s with input := es ++ s.input } = runEvents es s
end

