-- ==== Sys2Proof/Laws/Config.lean ====
section
/-! SUPPORT. The bounds of CNT_W and of CNT_MAX (00_scope.md R5, 10_state.md R14). -/

namespace Sys2Proof.Machine

theorem three_le_width (c : CntW) : 3 ≤ c.width := by cases c <;> decide

theorem width_le_sixteen (c : CntW) : c.width ≤ 16 := by cases c <;> decide

/-- CNT_MAX holds 4, the least length a valid frame has. -/
theorem seven_le_cntMax (c : CntW) : 7 ≤ cntMax c := by cases c <;> decide

/-- CNT_MAX fits 16 bits. -/
theorem cntMax_lt (c : CntW) : cntMax c < 2 ^ 16 := by cases c <;> decide

/-- CNT after one more byte, as a number. -/
@[simp] theorem nextCnt_toNat (c : CntW) (n : Word) : (nextCnt c n).toNat = min (n.toNat + 1) (cntMax c) := by
  have h := cntMax_lt c
  simp only [nextCnt, BitVec.toNat_ofNat]
  exact Nat.mod_eq_of_lt (by omega)

end Sys2Proof.Machine
end

