-- ==== Sys2Proof/Laws/Crc.lean ====
section
/-! SUPPORT. What the CRC functions are, said once (40_crc_commands.md R60 to R63, R67). -/

namespace Sys2Proof.Machine

/-- R60 on a word whose low bit is set. -/
theorem crcBit_of_low_set {a : Word} (h : a.getLsbD 0 = true) : crcBit a = (a >>> 1) ^^^ 0xA001 := by
  rw [crcBit, if_pos h, Config.feedback]

/-- R60 on a word whose low bit is clear. -/
theorem crcBit_of_low_clear {a : Word} (h : a.getLsbD 0 = false) : crcBit a = a >>> 1 := by
  rw [crcBit, if_neg (by simp only [h, Bool.false_eq_true, not_false_eq_true])]

@[simp] theorem crcBit_zero : crcBit 0 = 0 := by decide

/-- Iterating is iterating: `crcBits n` is the n-fold composite of `crcBit`. -/
theorem crcBits_eq_iterate (n : Nat) (a : Word) : crcBits n a = crcBit^[n] a := by
  induction n generalizing a with
  | zero => rfl
  | succ n ih => simp [crcBits, ih]

/-- Two runs of iterations are one longer run. -/
theorem crcBits_add (m n : Nat) (a : Word) : crcBits (m + n) a = crcBits n (crcBits m a) := by
  simp only [crcBits_eq_iterate, Nat.add_comm m n, Function.iterate_add_apply]

/-- The CRC of one sequence after another continues from the first one's accumulator. -/
theorem compute_append (s t : List Byte) : compute (s ++ t) = t.foldl crcByte (compute s) := by
  simp [compute]

theorem compute_snoc (s : List Byte) (b : Byte) : compute (s ++ [b]) = crcByte (compute s) b := by
  simp [compute]

@[simp] theorem compute_nil : compute [] = 0xFFFF := rfl

/-- The last byte of a sequence is the one just appended. -/
@[simp] theorem fromEnd_one_snoc (s : List Byte) (b : Byte) : fromEnd 1 (s ++ [b]) = b := by
  simp [fromEnd]

/-- The second-to-last byte was the last one before the append. -/
@[simp] theorem fromEnd_two_snoc (s : List Byte) (b : Byte) : fromEnd 2 (s ++ [b]) = fromEnd 1 s := by
  simp [fromEnd]

@[simp] theorem allButLastTwo_snoc (s : List Byte) (b : Byte) : allButLastTwo (s ++ [b]) = s.dropLast := by
  simp [allButLastTwo]

theorem allButLastTwo_append_pair (d : List Byte) (lo hi : Byte) : allButLastTwo (d ++ [lo, hi]) = d := by
  rw [show d ++ [lo, hi] = (d ++ [lo]) ++ [hi] by simp, allButLastTwo_snoc]
  simp

@[simp] theorem fromEnd_one_append_pair (d : List Byte) (lo hi : Byte) : fromEnd 1 (d ++ [lo, hi]) = hi := by
  simp [fromEnd]

@[simp] theorem fromEnd_two_append_pair (d : List Byte) (lo hi : Byte) : fromEnd 2 (d ++ [lo, hi]) = lo := by
  simp [fromEnd]

/-- A frame shorter than four bytes never verifies. -/
theorem verify_of_short {f : List Byte} (h : f.length < 4) : verify f = false := by
  simp [verify, Config.minFrame, h]

/-- A frame of at least four bytes verifies when the checksum of its data is its trailer. -/
theorem verify_of_long {f : List Byte} (h : 4 ≤ f.length) :
    verify f = (compute (allButLastTwo f) == littleEndian (fromEnd 2 f) (fromEnd 1 f)) := by
  simp [verify, Config.minFrame, Nat.not_lt.mpr h]

end Sys2Proof.Machine
end

