-- ==== Sys2Proof/Laws/Decode.lean ====
section
/-! SUPPORT. The three fields of a command word (30_encoding.md R40), said once. -/

namespace Sys2Proof

/-- R40: a word put together from its fields. -/
theorem fieldRsv_append (rsv op : BitVec 4) (d : Byte) : fieldRsv (rsv ++ op ++ d) = rsv := by
  apply BitVec.eq_of_toNat_eq
  have h1 := rsv.isLt; have h2 := op.isLt; have h3 := d.isLt
  simp only [fieldRsv, BitVec.extractLsb'_toNat, BitVec.toNat_append, Nat.shiftRight_eq_div_pow]
  rw [← Nat.shiftLeft_add_eq_or_of_lt h2, ← Nat.shiftLeft_add_eq_or_of_lt h3]
  simp only [Nat.shiftLeft_eq]
  omega

theorem fieldOp_append (rsv op : BitVec 4) (d : Byte) : fieldOp (rsv ++ op ++ d) = op := by
  apply BitVec.eq_of_toNat_eq
  have h1 := rsv.isLt; have h2 := op.isLt; have h3 := d.isLt
  simp only [fieldOp, BitVec.extractLsb'_toNat, BitVec.toNat_append, Nat.shiftRight_eq_div_pow]
  rw [← Nat.shiftLeft_add_eq_or_of_lt h2, ← Nat.shiftLeft_add_eq_or_of_lt h3]
  simp only [Nat.shiftLeft_eq]
  omega

theorem fieldD_append (rsv op : BitVec 4) (d : Byte) : fieldD (rsv ++ op ++ d) = d := by
  apply BitVec.eq_of_toNat_eq
  have h1 := rsv.isLt; have h2 := op.isLt; have h3 := d.isLt
  simp only [fieldD, BitVec.extractLsb'_toNat, BitVec.toNat_append, Nat.shiftRight_eq_div_pow]
  rw [← Nat.shiftLeft_add_eq_or_of_lt h2, ← Nat.shiftLeft_add_eq_or_of_lt h3]
  simp only [Nat.shiftLeft_eq]
  omega

/-- R40: the three fields as numbers. -/
theorem fieldRsv_toNat (w : Word) : (fieldRsv w).toNat = w.toNat / 0x1000 := by
  have h := w.isLt
  simp only [fieldRsv, BitVec.extractLsb'_toNat, Nat.shiftRight_eq_div_pow]
  omega

theorem fieldOp_toNat (w : Word) : (fieldOp w).toNat = w.toNat / 0x100 % 0x10 := by
  simp only [fieldOp, BitVec.extractLsb'_toNat, Nat.shiftRight_eq_div_pow]

theorem fieldD_toNat (w : Word) : (fieldD w).toNat = w.toNat % 0x100 := by
  simp [fieldD, BitVec.extractLsb'_toNat]

/-- R40: the fields are the whole word. -/
theorem word_eq_fields (w : Word) : w = fieldRsv w ++ fieldOp w ++ fieldD w := by
  apply BitVec.eq_of_toNat_eq
  have h2 := (fieldOp w).isLt; have h3 := (fieldD w).isLt
  simp only [BitVec.toNat_append]
  rw [← Nat.shiftLeft_add_eq_or_of_lt h2, ← Nat.shiftLeft_add_eq_or_of_lt h3]
  simp only [Nat.shiftLeft_eq, fieldRsv_toNat, fieldOp_toNat, fieldD_toNat]
  omega

/-- R42, R43: FEED's word is OP = 0x2 above its byte. -/
theorem encode_feed_eq_fields (d : Byte) : encode (.feed d) = (0x0#4 ++ 0x2#4) ++ d := by
  revert d
  decide

end Sys2Proof
end

