-- ==== Sys2Proof/Laws/State.lean ====
section
/-! SUPPORT. One lemma per field per update of State, so that no proof unfolds a record update. -/

namespace Sys2Proof.Machine

/-! R9: `respond` writes the response port only. -/

@[simp] theorem respond_cntW (v : Word) (s : State) : (respond v s).cntW = s.cntW := rfl
@[simp] theorem respond_acc (v : Word) (s : State) : (respond v s).acc = s.acc := rfl
@[simp] theorem respond_vacc (v : Word) (s : State) : (respond v s).vacc = s.vacc := rfl
@[simp] theorem respond_hold1 (v : Word) (s : State) : (respond v s).hold1 = s.hold1 := rfl
@[simp] theorem respond_hold0 (v : Word) (s : State) : (respond v s).hold0 = s.hold0 := rfl
@[simp] theorem respond_cnt (v : Word) (s : State) : (respond v s).cnt = s.cnt := rfl
@[simp] theorem respond_err (v : Word) (s : State) : (respond v s).err = s.err := rfl
@[simp] theorem respond_input (v : Word) (s : State) : (respond v s).input = s.input := rfl
@[simp] theorem respond_responses (v : Word) (s : State) : (respond v s).responses = s.responses ++ [v] := rfl

/-! R65: the registers at the start of a sequence. -/

@[simp] theorem startSequence_cntW (s : State) : (startSequence s).cntW = s.cntW := rfl
@[simp] theorem startSequence_acc (s : State) : (startSequence s).acc = 0xFFFF := rfl
@[simp] theorem startSequence_vacc (s : State) : (startSequence s).vacc = 0xFFFF := rfl
@[simp] theorem startSequence_hold1 (s : State) : (startSequence s).hold1 = 0x00 := rfl
@[simp] theorem startSequence_hold0 (s : State) : (startSequence s).hold0 = 0x00 := rfl
@[simp] theorem startSequence_cnt (s : State) : (startSequence s).cnt = 0 := rfl
@[simp] theorem startSequence_err (s : State) : (startSequence s).err = false := rfl
@[simp] theorem startSequence_input (s : State) : (startSequence s).input = s.input := rfl
@[simp] theorem startSequence_responses (s : State) : (startSequence s).responses = s.responses := rfl

/-! R66: the registers after one byte. -/

@[simp] theorem takeByte_cntW (d : Byte) (s : State) : (takeByte d s).cntW = s.cntW := rfl
@[simp] theorem takeByte_acc (d : Byte) (s : State) : (takeByte d s).acc = crcByte s.acc d := rfl
@[simp] theorem takeByte_vacc (d : Byte) (s : State) : (takeByte d s).vacc = if 2 ≤ s.cnt.toNat then crcByte s.vacc s.hold1 else s.vacc := rfl
@[simp] theorem takeByte_hold1 (d : Byte) (s : State) : (takeByte d s).hold1 = s.hold0 := rfl
@[simp] theorem takeByte_hold0 (d : Byte) (s : State) : (takeByte d s).hold0 = d := rfl
@[simp] theorem takeByte_cnt (d : Byte) (s : State) : (takeByte d s).cnt = nextCnt s.cntW s.cnt := rfl
@[simp] theorem takeByte_err (d : Byte) (s : State) : (takeByte d s).err = s.err := rfl
@[simp] theorem takeByte_input (d : Byte) (s : State) : (takeByte d s).input = s.input := rfl
@[simp] theorem takeByte_responses (d : Byte) (s : State) : (takeByte d s).responses = s.responses := rfl

/-! R91: IllegalCommand writes ERR and the response port only. -/

@[simp] theorem raiseIllegalCommand_cntW (s : State) : (raiseIllegalCommand s).cntW = s.cntW := rfl
@[simp] theorem raiseIllegalCommand_acc (s : State) : (raiseIllegalCommand s).acc = s.acc := rfl
@[simp] theorem raiseIllegalCommand_vacc (s : State) : (raiseIllegalCommand s).vacc = s.vacc := rfl
@[simp] theorem raiseIllegalCommand_hold1 (s : State) : (raiseIllegalCommand s).hold1 = s.hold1 := rfl
@[simp] theorem raiseIllegalCommand_hold0 (s : State) : (raiseIllegalCommand s).hold0 = s.hold0 := rfl
@[simp] theorem raiseIllegalCommand_cnt (s : State) : (raiseIllegalCommand s).cnt = s.cnt := rfl
@[simp] theorem raiseIllegalCommand_err (s : State) : (raiseIllegalCommand s).err = true := rfl
@[simp] theorem raiseIllegalCommand_input (s : State) : (raiseIllegalCommand s).input = s.input := rfl
@[simp] theorem raiseIllegalCommand_responses (s : State) : (raiseIllegalCommand s).responses = s.responses ++ [0x0000] := rfl

/-! R100: what reset leaves. -/

@[simp] theorem takeReset_cntW (s : State) : (takeReset s).cntW = s.cntW := rfl
@[simp] theorem takeReset_acc (s : State) : (takeReset s).acc = 0xFFFF := rfl
@[simp] theorem takeReset_vacc (s : State) : (takeReset s).vacc = 0xFFFF := rfl
@[simp] theorem takeReset_hold1 (s : State) : (takeReset s).hold1 = 0x00 := rfl
@[simp] theorem takeReset_hold0 (s : State) : (takeReset s).hold0 = 0x00 := rfl
@[simp] theorem takeReset_cnt (s : State) : (takeReset s).cnt = 0 := rfl
@[simp] theorem takeReset_err (s : State) : (takeReset s).err = false := rfl
@[simp] theorem takeReset_input (s : State) : (takeReset s).input = s.input := rfl
@[simp] theorem takeReset_responses (s : State) : (takeReset s).responses = [] := rfl

/-! R100: the reset state. -/

@[simp] theorem resetFor_cntW (c : CntW) : (State.resetFor c).cntW = c := rfl
@[simp] theorem resetFor_acc (c : CntW) : (State.resetFor c).acc = 0xFFFF := rfl
@[simp] theorem resetFor_vacc (c : CntW) : (State.resetFor c).vacc = 0xFFFF := rfl
@[simp] theorem resetFor_hold1 (c : CntW) : (State.resetFor c).hold1 = 0x00 := rfl
@[simp] theorem resetFor_hold0 (c : CntW) : (State.resetFor c).hold0 = 0x00 := rfl
@[simp] theorem resetFor_cnt (c : CntW) : (State.resetFor c).cnt = 0 := rfl
@[simp] theorem resetFor_err (c : CntW) : (State.resetFor c).err = false := rfl
@[simp] theorem resetFor_input (c : CntW) : (State.resetFor c).input = [] := rfl
@[simp] theorem resetFor_responses (c : CntW) : (State.resetFor c).responses = [] := rfl

end Sys2Proof.Machine
end

