-- ==== Sys2Proof/Laws/Exec.lean ====
section
/-! SUPPORT. Everything a command can do and everything a step can do, said once. -/

namespace Sys2Proof.Machine

/-- The registers a command writes: INIT starts a sequence, FEED takes its byte, the others write none. -/
def commandWrites : Instr → State → State
  | .init, s => startSequence s
  | .feed d, s => takeByte d s
  | .nop, s | .rdCrc, s | .rdStatus, s | .rdCnt, s | .rdVcrc, s | .rdRx, s => s

/-- The word a command responds with. -/
def commandAnswer : Instr → State → Word
  | .rdCrc, s => s.acc
  | .rdStatus, s => status s
  | .rdCnt, s => cntWord s
  | .rdVcrc, s => s.vacc
  | .rdRx, s => rx s
  | .nop, _ | .init, _ | .feed _, _ => 0x0000

/-- Every command completes: it writes its registers and gives one response. -/
theorem exec_completes (i : Instr) (s : State) : exec i s = .next (respond (commandAnswer i s) (commandWrites i s)) := by
  cases i <;> rfl

@[simp] theorem commandWrites_cntW (i : Instr) (s : State) : (commandWrites i s).cntW = s.cntW := by cases i <;> rfl

@[simp] theorem commandWrites_input (i : Instr) (s : State) : (commandWrites i s).input = s.input := by cases i <;> rfl

@[simp] theorem commandWrites_responses (i : Instr) (s : State) : (commandWrites i s).responses = s.responses := by
  cases i <;> rfl

/-- No command but INIT changes ERR. -/
theorem commandWrites_err {i : Instr} (h : i ≠ .init) (s : State) : (commandWrites i s).err = s.err := by
  cases i <;> first | rfl | exact absurd rfl h

/-- With no move of the host, the block keeps its state. -/
theorem step_idle {s : State} (h : s.input = []) : step s = .next s := by
  simp [step, nextEvent, h]

theorem step_reset {s : State} {rest : List HostEvent} (h : s.input = .reset :: rest) :
    step s = .next (takeReset { s with input := rest }) := by
  simp [step, nextEvent, h]

/-- A command word is taken by executing what it decodes to. -/
theorem step_word {s : State} {w : Word} {rest : List HostEvent} (h : s.input = .command w :: rest) :
    step s =
      match decode w with
      | .command i => exec i { s with input := rest }
      | .illegalCommand => .next (raiseIllegalCommand { s with input := rest }) := by
  cases hd : decode w <;> simp [step, nextEvent, h, hd]

/-- Everything a step can do: nothing without a move of the host, reset, one command, or IllegalCommand. -/
theorem step_cases {s t : State} (h : step s = .next t) :
    (s.input = [] ∧ t = s) ∨
    (∃ rest, s.input = .reset :: rest ∧ t = takeReset { s with input := rest }) ∨
    (∃ w rest i, s.input = .command w :: rest ∧ decode w = .command i ∧
      t = respond (commandAnswer i { s with input := rest }) (commandWrites i { s with input := rest })) ∨
    (∃ w rest, s.input = .command w :: rest ∧ decode w = .illegalCommand ∧
      t = raiseIllegalCommand { s with input := rest }) := by
  cases hi : s.input with
  | nil => rw [step_idle hi] at h; cases h; exact .inl ⟨rfl, rfl⟩
  | cons e rest =>
    cases e with
    | reset => rw [step_reset hi] at h; cases h; exact .inr (.inl ⟨rest, rfl, rfl⟩)
    | command w =>
      rw [step_word hi] at h
      cases hd : decode w with
      | command i =>
        simp only [hd, exec_completes] at h
        cases h
        exact .inr (.inr (.inl ⟨w, rest, i, rfl, hd, rfl⟩))
      | illegalCommand =>
        simp only [hd] at h
        cases h
        exact .inr (.inr (.inr ⟨w, rest, rfl, hd, rfl⟩))

end Sys2Proof.Machine
end

