-- ==== Sys2Proof/Laws/Flags.lean ====
section
/-! SUPPORT. The STATUS bits as propositions about the registers (10_state.md R18 to R20). -/

namespace Sys2Proof.Machine

/-- R19. -/
theorem flagLen4_iff (s : State) : flagLen4 s = true ↔ 4 ≤ s.cnt.toNat := by
  rw [flagLen4, decide_eq_true_iff]
  rfl

/-- R18. -/
theorem flagValid_iff (s : State) : flagValid s = true ↔ 4 ≤ s.cnt.toNat ∧ s.vacc = rx s := by
  rw [flagValid, Bool.and_eq_true, flagLen4_iff, beq_iff_eq]

/-- R20. -/
theorem flagSat_iff (s : State) : flagSat s = true ↔ s.cnt.toNat = cntMax s.cntW := by
  rw [flagSat, beq_iff_eq]

/-- R20, R5: at the ceiling the frame is long enough, since CNT_MAX is at least 7. -/
theorem flagLen4_of_flagSat {s : State} (h : flagSat s = true) : flagLen4 s = true := by
  have h7 := seven_le_cntMax s.cntW
  rw [flagSat_iff] at h
  rw [flagLen4_iff]
  omega

end Sys2Proof.Machine
end

