-- ==== Sys2Proof/Laws/PerInstr.lean ====
section
/-! SUPPORT. One fact about each command as syntax: its operand passes the well-formedness check and its word is a legal one
with RSV = 0 (30_encoding.md R40, R43). -/

namespace Sys2Proof.Laws.Encoded

/-- The command is well formed and its word's reserved field is zero. -/
def Statement (i : Instr) : Prop := i.wellFormed = true ∧ fieldRsv (encode i) = 0

theorem nop : Statement .nop := ⟨rfl, by decide⟩
theorem init : Statement .init := ⟨rfl, by decide⟩
theorem feed (d : Byte) : Statement (.feed d) := by
  revert d
  unfold Statement
  decide
theorem rdCrc : Statement .rdCrc := ⟨rfl, by decide⟩
theorem rdStatus : Statement .rdStatus := ⟨rfl, by decide⟩
theorem rdCnt : Statement .rdCnt := ⟨rfl, by decide⟩
theorem rdVcrc : Statement .rdVcrc := ⟨rfl, by decide⟩
theorem rdRx : Statement .rdRx := ⟨rfl, by decide⟩

end Sys2Proof.Laws.Encoded
end

