-- ==== Sys2Proof/Laws/Run.lean ====
section
/-! SUPPORT. What one move of the host does, and how runs are put together (92_eei_decisions.md D16). -/

namespace Sys2Proof.Machine

@[simp] theorem deliver_reset (s : State) : deliver .reset s = .next (takeReset s) := by
  rw [deliver, step_reset rfl]

/-- A word that is a command: its registers written and its response given. -/
theorem deliver_command {w : Word} {i : Instr} (h : decode w = .command i) (s : State) :
    deliver (.command w) s = .next (respond (commandAnswer i s) (commandWrites i s)) := by
  rw [deliver, step_word rfl]
  simp only [h, exec_completes]

/-- A word that is none. -/
theorem deliver_illegal {w : Word} (h : decode w = .illegalCommand) (s : State) :
    deliver (.command w) s = .next (raiseIllegalCommand s) := by
  rw [deliver, step_word rfl]
  simp only [h]

@[simp] theorem runEvents_nil (s : State) : runEvents [] s = .next s := rfl

/-- A run's first move, then the rest of it. -/
theorem runEvents_cons {e : HostEvent} {s t : State} (h : deliver e s = .next t) (es : List HostEvent) :
    runEvents (e :: es) s = runEvents es t := by
  simp only [runEvents, h]

/-- One run after another is one longer run. -/
theorem runEvents_append {xs : List HostEvent} {s t : State} (h : runEvents xs s = .next t) (ys : List HostEvent) :
    runEvents (xs ++ ys) s = runEvents ys t := by
  induction xs generalizing s with
  | nil => cases h; rfl
  | cons e xs ih =>
    cases hd : deliver e s with
    | next u =>
      rw [runEvents_cons hd] at h
      rw [List.cons_append, runEvents_cons hd]
      exact ih h
    | fault r => simp [runEvents, hd] at h
    | refused r => simp [runEvents, hd] at h

/-- The host's own run: one step, then the rest. -/
theorem coreRun_succ {s t : State} (h : step s = .next t) (n : Nat) :
    Host.Core.run Sys2Proof.core (n + 1) s = Host.Core.run Sys2Proof.core n t := by
  have h' : Sys2Proof.core.step s = .next t := h
  simp only [Host.Core.run, h']

end Sys2Proof.Machine
end

