-- ==== Sys2Proof/Tests/Slice0.lean ====
section
/-! SUPPORT. Tests against 95_test_vectors.md (the vector is named at each test), and one witness for every hypothesis of an
obligation. -/

namespace Sys2Proof.Tests

open Sys2Proof.Machine

/-- A state in the column order of 95_test_vectors.md, `ACC VACC HOLD1 HOLD0 CNT ERR`, with empty ports. -/
def regs (acc vacc : Word) (hold1 hold0 : Byte) (cnt : Word) (err : Bool) (w : CntW := .bits16) : State where
  cntW := w
  acc := acc
  vacc := vacc
  hold1 := hold1
  hold0 := hold0
  cnt := cnt
  err := err
  input := []
  responses := []

/-- The next state, if there is one. -/
def nextOf : Host.Outcome State Fault Refusal → Option State
  | .next s => some s
  | .fault _ => none
  | .refused _ => none

/-- The registers and the last response after one command. -/
def ran (i : Instr) (s : State) : Option (State × Option Word) :=
  (nextOf (exec i s)).map fun t => ({ t with responses := s.responses }, t.responses.getLast?)

/-- S1 of section 2.6: reset, then FEED 0x31. -/
def s1 : State := regs 0x947E 0xFFFF 0x00 0x31 1 false

/-! ## Well-formedness: one ill-formed word per check, refused -/

theorem test_reserved_not_zero : reservedIsZero 0x1200 = false ∧ legalWord 0x1200 = false := by decide
theorem test_no_such_operation : operationExists 0x0800 = false ∧ legalWord 0x0800 = false := by decide
theorem test_data_on_non_data_operation : dataAllowed 0x03FF = false ∧ legalWord 0x03FF = false := by decide
theorem test_feed_word_is_legal : legalWord 0x02FF = true ∧ legalWord 0x0700 = true := by decide
theorem test_feed_operand_is_a_byte : Instr.wellFormed (.feed 0xFF) = true := by decide
/-- DV-CNT-3: CNT_W = 2 is not a legal parameter value, nor is 17. -/
theorem test_cnt_width_rejected : CntW.ofNat? 2 = none ∧ CntW.ofNat? 17 = none ∧ CntW.ofNat? 3 = some .bits3 := by decide

/-! ## Decoding: RSV, OP and D written out bit by bit (R40, R42; DV-DEC-1 to DV-DEC-21) -/

theorem test_decode_nop : decode (0b0000#4 ++ 0b0000#4 ++ 0b00000000#8) = .command .nop := by decide
theorem test_decode_init : decode (0b0000#4 ++ 0b0001#4 ++ 0b00000000#8) = .command .init := by decide
theorem test_decode_feed : decode (0b0000#4 ++ 0b0010#4 ++ 0b00110001#8) = .command (.feed 0x31) := by decide
theorem test_decode_rdCrc : decode (0b0000#4 ++ 0b0011#4 ++ 0b00000000#8) = .command .rdCrc := by decide
theorem test_decode_rdStatus : decode (0b0000#4 ++ 0b0100#4 ++ 0b00000000#8) = .command .rdStatus := by decide
theorem test_decode_rdCnt : decode (0b0000#4 ++ 0b0101#4 ++ 0b00000000#8) = .command .rdCnt := by decide
theorem test_decode_rdVcrc : decode (0b0000#4 ++ 0b0110#4 ++ 0b00000000#8) = .command .rdVcrc := by decide
theorem test_decode_rdRx : decode (0b0000#4 ++ 0b0111#4 ++ 0b00000000#8) = .command .rdRx := by decide
theorem test_decode_illegal :
    ([0x0001, 0x00FF, 0x0101, 0x03FF, 0x0800, 0x0F00, 0x1000, 0x1200, 0x12FF, 0xF000, 0xFFFF, 0x1801] : List Word).all
      (fun w => decode w == .illegalCommand) = true := by decide
theorem test_table_word : decodeTableWord 16 0x0231 = some (.feed 0x31) ∧ decodeTableWord 16 0x0801 = none := by decide

/-! ## The CRC functions -/

/-- DV-BIT-1 to DV-BIT-7. -/
theorem test_crcBit :
    ([0x0000, 0x0001, 0x0002, 0xFFFF, 0xFFFE, 0x8001, 0xA001] : List Word).map crcBit =
      [0x0000, 0xA001, 0x0001, 0xDFFE, 0x7FFF, 0xE001, 0xF001] := by decide
/-- DV-BYTE-1 to DV-BYTE-8. -/
theorem test_crcByte :
    crcByte 0xFFFF 0x01 = 0x807E ∧ crcByte 0xFFFF 0x00 = 0x40BF ∧ crcByte 0x0000 0x80 = 0xA001 ∧
      crcByte 0x0000 0xFF = 0x4040 ∧ crcByte 0x1234 0x56 = 0xE993 := by decide
/-- DV-CMP-1, DV-CMP-7, DV-CMP-15. -/
theorem test_compute : compute [] = 0xFFFF ∧ compute [0x31] = 0x947E ∧ compute [0x01, 0x02] = 0xE181 := by
  decide +kernel
/-- DV-VER-4, DV-VER-5, DV-VER-6, DV-VER-8. -/
theorem test_verify :
    verify [0xFF, 0xFF] = false ∧ verify [0x01, 0x02, 0x81, 0xE1] = true ∧
      verify [0x00, 0xBF, 0x40] = false ∧ verify [0x01, 0x02, 0xE1, 0x81] = false := by decide +kernel

/-! ## One command each (section 2.6) -/

/-- DV-NOP-1. -/
theorem test_nop : ran .nop s1 = some (s1, some 0x0000) := by decide
/-- DV-INIT-2: ERR is cleared. -/
theorem test_init : ran .init { s1 with err := true } = some (regs 0xFFFF 0xFFFF 0x00 0x00 0 false, some 0x0000) := by decide
/-- DV-FEED-4: the first advance of VACC. -/
theorem test_feed_third_byte :
    ran (.feed 0x00) (regs 0xE301 0xFFFF 0x01 0x04 2 false) = some (regs 0xC022 0x807E 0x04 0x00 3 false, some 0x0000) := by
  decide
/-- Program P6, line 9: CNT stays at its ceiling with CNT_W = 3. -/
theorem test_feed_saturated :
    ran (.feed 0x87) (regs 0x0087 0x77F7 0x03 0x76 7 false .bits3) =
      some (regs 0x0000 0x8776 0x76 0x87 7 false .bits3, some 0x0000) := by decide
/-- DV-RD-1. -/
theorem test_rdCrc : ran .rdCrc s1 = some (s1, some 0x947E) := by decide
/-- Program P3, line 9: a bad trailer with ERR set. -/
theorem test_rdStatus_bad :
    (ran .rdStatus (regs 0xC0C1 0xC1C2 0xC2 0xC0 5 true)).map Prod.snd = some (some 0x0006) := by decide
/-- Program P6, line 10: valid and saturated. -/
theorem test_rdStatus_saturated :
    (ran .rdStatus (regs 0x0000 0x8776 0x76 0x87 7 false .bits3)).map Prod.snd = some (some 0x000B) := by decide
/-- DV-RD-3. -/
theorem test_rdCnt : ran .rdCnt s1 = some (s1, some 0x0001) := by decide
/-- Program P3, line 11. -/
theorem test_rdVcrc : (ran .rdVcrc (regs 0xC0C1 0xC1C2 0xC2 0xC0 5 true)).map Prod.snd = some (some 0xC1C2) := by decide
/-- DV-RD-5, and program P3, line 10. -/
theorem test_rdRx :
    ran .rdRx s1 = some (s1, some 0x3100) ∧
      (ran .rdRx (regs 0xC0C1 0xC1C2 0xC2 0xC0 5 true)).map Prod.snd = some (some 0xC0C2) := by decide

/-! ## Steps -/

/-- DV-ILL-3: an illegal word sets ERR and nothing else. -/
theorem test_step_illegal :
    nextOf (step { s1 with input := [.command 0x0801] }) = some { s1 with err := true, responses := [0x0000] } := by decide
/-- R100: reset leaves the reset state and no response. -/
theorem test_step_reset :
    nextOf (step { s1 with input := [.reset, .command 0x0300], responses := [0x1234] }) =
      some { State.reset with input := [.command 0x0300] } := by decide
/-- The machine right after reset runs a placed FEED 0x31 and comes to S1. -/
theorem test_placed_word_runs :
    nextOf (step (State.reset.withFetchWord 16 0x0231)) = some { s1 with responses := [0x0000] } := by decide

/-! ## Assembler (R48) -/

theorem test_assemble_line : parseLine "FEED 0x31 ; first byte".toList = some (.command (.feed 0x31)) := by decide
theorem test_assemble_pseudo :
    (parseLine "CRC16 1, 0x04".toList).map lineWords = some [0x0100, 0x0201, 0x0204, 0x0300] := by decide
theorem test_assemble_error :
    parseLine "FEED 256".toList = none ∧ parseLine "feed 1".toList = none ∧ parseLine "RD_CRC 0".toList = none := by decide

/-! ## Witnesses: every hypothesis of an obligation is met by a concrete state and concrete operands -/

/-- The four-byte frame of program P4, line 6. -/
def validFour : State := regs 0x0000 0xE181 0x81 0xE1 4 false

/-- A machine with CNT_W = 3 at its ceiling (program P6, line 8). -/
def saturated : State := regs 0x0087 0x77F7 0x03 0x76 7 false .bits3

theorem tracks_validFour : Tracks [0x01, 0x02, 0x81, 0xE1] validFour :=
  ⟨by decide +kernel, by decide +kernel, by decide, by decide, by decide⟩
theorem tracks_saturated : Tracks [0x11, 0x03, 0x00, 0x6B, 0x00, 0x03, 0x76] saturated :=
  ⟨by decide +kernel, by decide +kernel, by decide, by decide, by decide⟩
theorem tracks_one : Tracks [0x31] s1 := ⟨by decide, by decide, by decide, by decide, by decide⟩
theorem tracks_two : Tracks [0x01, 0x02] (regs 0xE181 0xFFFF 0x01 0x02 2 false) :=
  ⟨by decide +kernel, by decide, by decide, by decide, by decide⟩
theorem tracks_none : Tracks [] State.reset := ⟨rfl, rfl, rfl, rfl, by decide⟩

/-- DecodeByFields: each clause at the edge of its range. -/
theorem witness_DecodeByFields :
    (0x1#4 ≠ 0 ∧ 0x2#4 = 0x2) ∧ (0x0#4 = 0 ∧ 0x2#4 = 0x2) ∧ 0x7 < (0x8#4).toNat ∧ (0x3#4 ≠ 0x2 ∧ 0x01#8 ≠ 0x00) ∧
      (0x0#4 = 0 ∧ 0x00#8 = 0x00 ∧ 0x0#4 = 0x0 ∧ 0x7#4 = 0x7) := by decide
/-- DecodeInvertsEncode, LegalWordsAreThoseOfTheMap, OneMapRowPerLegalWord: a legal word, an illegal one and a row. -/
theorem witness_OneMapRowPerLegalWord :
    decode 0x02FF = .command (.feed 0xFF) ∧ decode 0x0800 = .illegalCommand ∧
      (⟨"NOP", 0x0000, 0xFFFF⟩ : OpcodeRow) ∈ opcodeMap ∧ OpcodeRow.covers ⟨"NOP", 0x0000, 0xFFFF⟩ 0x0000 = true := by decide
/-- IllegalOnThreeGroundsOnly, one word on each ground alone. -/
theorem witness_IllegalOnThreeGroundsOnly :
    decode 0x1000 = .illegalCommand ∧ decode 0x0800 = .illegalCommand ∧ decode 0x0701 = .illegalCommand := by decide
theorem witness_StepRunsTheDecodedCommand :
    ({ s1 with input := [.command 0x0300] } : State).input = .command 0x0300 :: [] ∧ decode 0x0300 = .command .rdCrc := by
  decide
theorem witness_PlacedWordRunsNext :
    decodeTableWord 16 0x0300 = some .rdCrc ∧ decodeTableWord 16 0x0801 = none := by decide
theorem witness_IllegalCommandSetsErrOnly :
    ({ s1 with input := [.command 0x0801, .command 0x0100] } : State).input = .command 0x0801 :: [.command 0x0100] ∧
      decode 0x0801 = .illegalCommand ∧ [HostEvent.command 0x0100] = .command 0x0100 :: [] := by decide
theorem witness_ResetIsTakenBetweenCommands :
    ({ s1 with input := [.reset, .command 0x0300] } : State).input = .reset :: [.command 0x0300] := by decide
theorem witness_StepAlwaysAnswersNext : s1.input = [] := by decide
/-- RegistersChangeOnlyByTheirWriters: a delivery that changes ACC, and one that changes ERR. -/
theorem witness_RegistersChangeOnlyByTheirWriters :
    (∃ t, deliver (.command 0x0231) State.reset = .next t ∧ t.acc ≠ State.reset.acc) ∧
      ∃ t, deliver (.command 0x0801) State.reset = .next t ∧ t.err ≠ State.reset.err :=
  ⟨⟨_, deliver_command (i := .feed 0x31) (by decide) _, by decide⟩, ⟨_, deliver_illegal (by decide) _, by decide⟩⟩
/-- RegistersDependOnlyOnTheirReads: two states that differ in every register a clause leaves free. -/
theorem witness_RegistersDependOnlyOnTheirReads :
    (∃ t, deliver (.command 0x0231) s1 = .next t) ∧
      (∃ t, deliver (.command 0x0231) { s1 with acc := 0, err := true } = .next t) ∧
      s1.cntW = ({ s1 with acc := 0, err := true } : State).cntW ∧ s1.vacc = ({ s1 with acc := 0, err := true } : State).vacc ∧
      s1.hold1 = ({ s1 with acc := 0, err := true } : State).hold1 ∧
      s1.hold0 = ({ s1 with acc := 0, err := true } : State).hold0 ∧
      s1.cnt = ({ s1 with acc := 0, err := true } : State).cnt ∧ s1.acc = ({ s1 with err := true } : State).acc :=
  ⟨⟨_, deliver_command (i := .feed 0x31) (by decide) _⟩, ⟨_, deliver_command (i := .feed 0x31) (by decide) _⟩, by decide⟩
theorem witness_CrcBitShiftsThenXors : (0x0001 : Word).getLsbD 0 = true ∧ (0xFFFE : Word).getLsbD 0 = false := by decide
/-- VerifyComparesDataWithTrailer and BadFramesRaiseNothing: lengths 3 and 4. -/
theorem witness_VerifyComparesDataWithTrailer :
    ([0x00, 0xBF, 0x40] : List Byte).length < 4 ∧ 4 ≤ ([0x01, 0x02, 0x81, 0xE1] : List Byte).length := by decide
/-- ResidueIsZeroExactlyForValidTrailers: CNT at the boundary 4. -/
theorem witness_ResidueIsZeroExactlyForValidTrailers :
    Tracks [0x01, 0x02, 0x81, 0xE1] validFour ∧ 4 ≤ validFour.cnt.toNat := ⟨tracks_validFour, by decide⟩
theorem witness_ChangedNeighbouringBytesChangeTheCrc :
    (0x00 : Byte) ≠ 0x01 ∧ ((0x00, 0x01) : Byte × Byte) ≠ (0x01, 0x00) := by decide
theorem witness_NopOnlyResponds : (0x01 : Byte) ≠ 0x00 ∧ (0xFF : Byte) ≠ 0x00 := by decide
theorem witness_RdCrcRespondsAcc :
    Tracks [0x01, 0x02, 0x81, 0xE1] validFour ∧ verify [0x01, 0x02, 0x81, 0xE1] = true :=
  ⟨tracks_validFour, by decide +kernel⟩
/-- RdStatusRespondsStatus: CNT = 3, a bad and a good trailer at CNT = 4, and SAT at the ceiling. -/
theorem witness_RdStatusRespondsStatus :
    (regs 0x00E1 0x807E 0x02 0x81 3 false).cnt.toNat < 4 ∧
      ({ validFour with hold0 := 0xE0 } : State).cnt.toNat ≥ 4 ∧
      ({ validFour with hold0 := 0xE0 } : State).vacc ≠ rx { validFour with hold0 := 0xE0 } ∧
      validFour.cnt.toNat ≥ 4 ∧ validFour.vacc = rx validFour ∧
      Tracks [0x11, 0x03, 0x00, 0x6B, 0x00, 0x03, 0x76] saturated ∧ (status saturated).getLsbD 3 = true :=
  ⟨by decide, by decide, by decide, by decide, by decide, tracks_saturated, by decide⟩
theorem witness_RdCntRespondsCount :
    Tracks [0x11, 0x03, 0x00, 0x6B, 0x00, 0x03, 0x76] saturated ∧
      2 ^ saturated.cntW.width - 1 ≤ ([0x11, 0x03, 0x00, 0x6B, 0x00, 0x03, 0x76] : List Byte).length :=
  ⟨tracks_saturated, by decide⟩
/-- RdVcrcRespondsVacc: CNT at the boundary 2. -/
theorem witness_RdVcrcRespondsVacc :
    Tracks [0x01, 0x02] (regs 0xE181 0xFFFF 0x01 0x02 2 false) ∧ (regs 0xE181 0xFFFF 0x01 0x02 2 false).cnt.toNat ≤ 2 :=
  ⟨tracks_two, by decide⟩
theorem witness_RdRxRespondsTrailer :
    (Tracks [] State.reset ∧ State.reset.cnt.toNat = 0) ∧ (Tracks [0x31] s1 ∧ s1.cnt.toNat = 1 ∧ [(0x31 : Byte)] = [0x31]) :=
  ⟨⟨tracks_none, by decide⟩, tracks_one, by decide, rfl⟩
theorem witness_ReadsAreIdempotent : Instr.rdStatus ∈ [Instr.rdCrc, .rdStatus, .rdCnt, .rdVcrc, .rdRx] := by decide
theorem witness_StatusBitsByField : 4 ≤ 4 ∧ 4 ≤ 15 ∧ (status s1).getLsbD 1 = false := by decide
theorem witness_RxIsTheReceivedTrailer : Tracks ([0x01, 0x02] ++ [0x81, 0xE1]) validFour := tracks_validFour
/-- ErrIsSticky: a step that sets ERR and one that keeps it. -/
theorem witness_ErrIsSticky :
    (∃ t, step { s1 with input := [.command 0x0801] } = .next t ∧ t.err = true) ∧
      ∃ t, step { s1 with err := true, input := [.command 0x0400] } = .next t ∧ t.err = true :=
  ⟨⟨_, rfl, by decide⟩, ⟨_, rfl, by decide⟩⟩
/-- BadFramesRaiseNothing: a fourth byte that does not check, and a third byte. -/
theorem witness_BadFramesRaiseNothing :
    (∃ t, exec (.feed 0xE0) (regs 0x00E1 0x807E 0x02 0x81 3 false) = .next t ∧ 4 ≤ t.cnt.toNat ∧ t.vacc ≠ rx t) ∧
      ∃ t, exec (.feed 0x81) (regs 0xE181 0xFFFF 0x01 0x02 2 false) = .next t ∧ t.cnt.toNat < 4 :=
  ⟨⟨_, rfl, by decide, by decide⟩, ⟨_, rfl, by decide⟩⟩
theorem witness_ManyIllegalWordsAreAsOne :
    ([0x1801, 0x0801] : List Word) ≠ [] ∧ decode 0x1801 = .illegalCommand ∧ decode 0x0801 = .illegalCommand := by decide
/-- CntSaturatesAndNeverWraps, StepKeepsCntWithinItsWidth: below the ceiling and at it. -/
theorem witness_CntSaturatesAndNeverWraps :
    (CntFits validFour ∧ validFour.cnt.toNat < 2 ^ validFour.cntW.width - 1 ∧ 4 ≤ validFour.cnt.toNat) ∧
      (CntFits saturated ∧ saturated.cnt.toNat = 2 ^ saturated.cntW.width - 1 ∧ 2 ≤ saturated.cnt.toNat) := by
  unfold CntFits
  decide
theorem witness_CntWidthsAreThreeToSixteen : CntW.ofNat? 3 = some .bits3 ∧ CntW.ofNat? 16 = some .bits16 := by decide
theorem witness_StepKeepsCntWithinItsWidth :
    CntFits saturated ∧ ∃ t, step { saturated with input := [.command 0x0287] } = .next t :=
  ⟨by unfold CntFits; decide, _, rfl⟩
theorem witness_ResetAndInitTrackNoByte : ∃ t, exec .init s1 = .next t := ⟨_, rfl⟩
theorem witness_StepKeepsTheRegistersOfTheBytesFed : Tracks [0x11, 0x03, 0x00, 0x6B, 0x00, 0x03, 0x76] saturated :=
  tracks_saturated
theorem witness_VaccLagsTwoBytesBehind :
    ([0x01, 0x02] : List Byte).length < 3 ∧ ([0x01, 0x02, 0x81] : List Byte) = [0x01] ++ [0x02, 0x81] := by decide
/-- StreamingComputesTheFrame: both starts, and words with a NOP, a read and an illegal word among the FEEDs. -/
theorem witness_StreamingComputesTheFrame :
    (∃ c, State.reset = State.resetFor c) ∧ (∃ t, exec .init s1 = .next t) ∧
      (∀ w ∈ ([0x0201, 0x0000, 0x0202, 0x0400, 0x0801, 0x0281] : List Word), decode w ≠ .command .init) ∧
      2 ≤ (fedBytes [0x0201, 0x0000, 0x0202, 0x0400, 0x0801, 0x0281]).length :=
  ⟨⟨_, rfl⟩, ⟨_, rfl⟩, by intro w hw; fin_cases hw <;> decide, by decide⟩
theorem witness_FramesWithoutInitConcatenate :
    Tracks [0x01, 0x02, 0x81, 0xE1] validFour ∧ ∀ w ∈ ([0x0201, 0x0202] : List Word), decode w ≠ .command .init :=
  ⟨tracks_validFour, by intro w hw; fin_cases hw <;> decide⟩
theorem witness_EveryWordIsAnsweredOnceInOrder : ([0x0100, 0x0801] : List Word)[1]? = some 0x0801 := by decide
/-- RegistersDetermineEveryRun: two states that differ in what was answered before. -/
theorem witness_RegistersDetermineEveryRun : SameRegisters s1 { s1 with responses := [0x0000], input := [.reset] } :=
  ⟨rfl, rfl, rfl, rfl, rfl, rfl, rfl⟩

end Sys2Proof.Tests
end

/-! SUPPORT. Facts the state obligations need beyond `Laws/`: decoding against encoding, the bits of STATUS and RX, and
the registers after each byte of a frame. -/

namespace Sys2Proof

/-- The operations without a data byte: the word put together from the fields is the command's own. -/
theorem encode_of_decodeOp {op : BitVec 4} {i : Instr} (h : decodeOp op = .command i) :
    encode i = (0x0#4 ++ op) ++ 0x00#8 := by
  unfold decodeOp at h
  split at h <;> cases h
  all_goals
    rename_i hop
    rw [← BitVec.setWidth_eq op, ← BitVec.ofNat_toNat, hop]
    decide

/-- R42: a word that decodes to a command is that command's word. -/
theorem eq_encode_of_decode {w : Word} {i : Instr} (h : decode w = .command i) : w = encode i := by
  rw [word_eq_fields w]
  unfold decode at h
  split at h
  · cases h
  next hrsv =>
    rw [not_not.mp hrsv]
    split at h
    next hop => cases h; rw [hop, encode_feed_eq_fields]; rfl
    next =>
      split at h
      · cases h
      · split at h
        · cases h
        next hd => rw [not_not.mp hd, encode_of_decodeOp h]; rfl

/-- R42: a command's word decodes to the command. -/
@[simp] theorem decode_encode (i : Instr) : decode (encode i) = .command i := by
  cases i with
  | feed d =>
    rw [encode_feed_eq_fields, decode, fieldRsv_append, fieldOp_append, fieldD_append]
    rfl
  | nop | init | rdCrc | rdStatus | rdCnt | rdVcrc | rdRx => decide

/-- R42: which command a legal word is can be told by comparing it with that command's word. -/
theorem word_eq_encode_iff {w : Word} {i : Instr} (h : decode w = .command i) (j : Instr) : w = encode j ↔ i = j := by
  constructor
  · rintro rfl
    exact Decoded.command.inj (h.symm.trans (decode_encode j))
  · rintro rfl
    exact eq_encode_of_decode h

end Sys2Proof

namespace Sys2Proof.Machine

/-! STATUS (R17) bit by bit. -/

theorem bitWord_getLsbD (b : Bool) (k : Nat) : (bitWord b).getLsbD k = (decide (k = 0) && b) := by
  cases k <;> simp [bitWord]

/-- R17, R21: the four flags from bit 0 up, and nothing above them. -/
theorem status_getLsbD (s : State) (k : Nat) :
    (status s).getLsbD k = [flagValid s, flagLen4 s, s.err, flagSat s].getD k false := by
  simp only [status, BitVec.getLsbD_or, BitVec.getLsbD_shiftLeft, bitWord_getLsbD]
  match k with
  | 0 | 1 | 2 | 3 => simp
  | k + 4 => simp

/-- R18: a frame that is too short is never valid. -/
theorem flagValid_of_short {s : State} (h : flagLen4 s = false) : flagValid s = false := by
  rw [flagValid, h, Bool.false_and]

/-- R100: at reset no flag is up, whatever the width of CNT. -/
@[simp] theorem status_resetFor (c : CntW) : status (State.resetFor c) = 0x0000 := by
  cases c <;> decide

/-! RX (R16) and its two bytes. -/

theorem rx_eq_littleEndian (s : State) : rx s = littleEndian s.hold1 s.hold0 := rfl

@[simp] theorem littleEndian_low (lo hi : Byte) : (littleEndian lo hi).extractLsb' 0 8 = lo := by
  ext k hk
  have h16 : k < 16 := by omega
  simp [littleEndian, hk, h16]

@[simp] theorem littleEndian_high (lo hi : Byte) : (littleEndian lo hi).extractLsb' 8 8 = hi := by
  ext k hk
  have h8 : 8 + k < 16 := by omega
  simp [littleEndian, hk, h8]

/-! CNT (R14) after one more byte. -/

theorem nextCnt_toNat_of_lt {c : CntW} {n : Word} (h : n.toNat < cntMax c) : (nextCnt c n).toNat = n.toNat + 1 := by
  rw [nextCnt_toNat]
  omega

theorem nextCnt_of_eq_cntMax {c : CntW} {n : Word} (h : n.toNat = cntMax c) : nextCnt c n = n := by
  apply BitVec.eq_of_toNat_eq
  rw [nextCnt_toNat]
  omega

theorem nextCnt_le_cntMax (c : CntW) (n : Word) : (nextCnt c n).toNat ≤ cntMax c := by
  rw [nextCnt_toNat]
  omega

theorem le_nextCnt {c : CntW} {n : Word} (h : n.toNat ≤ cntMax c) : n.toNat ≤ (nextCnt c n).toNat := by
  rw [nextCnt_toNat]
  omega

/-! A sequence and its last two bytes (R8). -/

theorem allButLastTwo_eq_take (bs : List Byte) : allButLastTwo bs = bs.take (bs.length - 2) := by
  rw [allButLastTwo, List.dropLast_eq_take, List.dropLast_eq_take, List.take_take]
  congr 1
  rw [List.length_take]
  omega

theorem allButLastTwo_of_length_le {bs : List Byte} (h : bs.length ≤ 2) : allButLastTwo bs = [] := by
  rw [allButLastTwo_eq_take, Nat.sub_eq_zero_of_le h, List.take_zero]

/-- The byte that VACC takes in next is the second to last one (R12). -/
theorem dropLast_eq_allButLastTwo_snoc {bs : List Byte} (h : 2 ≤ bs.length) :
    bs.dropLast = allButLastTwo bs ++ [fromEnd 2 bs] := by
  obtain rfl | ⟨p, b, rfl⟩ := bs.eq_nil_or_concat
  · simp at h
  obtain rfl | ⟨q, a, rfl⟩ := p.eq_nil_or_concat
  · simp at h
  simp [allButLastTwo_append_pair]

/-! R69: the registers track the bytes fed. -/

/-- R65: right after the start of a sequence the registers are those of no byte. -/
theorem tracks_startSequence (s : State) : Tracks [] (startSequence s) :=
  ⟨rfl, rfl, rfl, rfl, by simp⟩

/-- R9: giving a response leaves the registers as they are. -/
theorem tracks_respond {bs : List Byte} {s : State} (h : Tracks bs s) (v : Word) : Tracks bs (respond v s) :=
  ⟨h.acc, h.vacc, h.hold1, h.hold0, h.cnt⟩

/-- CNT saturates above 2, so it still tells a sequence of two bytes from a shorter one. -/
theorem Tracks.two_le_cnt_iff {bs : List Byte} {s : State} (h : Tracks bs s) : 2 ≤ s.cnt.toNat ↔ 2 ≤ bs.length := by
  have hmax := seven_le_cntMax s.cntW
  rw [h.cnt]
  omega

/-- R66: one byte through the block leaves the registers of the sequence with that byte appended. -/
theorem tracks_takeByte {bs : List Byte} {s : State} (h : Tracks bs s) (d : Byte) :
    Tracks (bs ++ [d]) (takeByte d s) where
  acc := by rw [takeByte_acc, h.acc, compute_snoc]
  vacc := by
    rw [takeByte_vacc, allButLastTwo_snoc, h.vacc, h.hold1]
    by_cases h2 : 2 ≤ bs.length
    · rw [if_pos (h.two_le_cnt_iff.mpr h2), dropLast_eq_allButLastTwo_snoc h2, compute_snoc]
    · have hdrop : bs.dropLast = [] := List.length_eq_zero_iff.mp (by simp; omega)
      rw [if_neg (mt h.two_le_cnt_iff.mp h2), hdrop, allButLastTwo_of_length_le (by omega)]
  hold1 := by rw [takeByte_hold1, fromEnd_two_snoc, h.hold0]
  hold0 := by rw [takeByte_hold0, fromEnd_one_snoc]
  cnt := by
    rw [takeByte_cnt, takeByte_cntW, nextCnt_toNat, h.cnt, List.length_append, List.length_singleton]
    omega

/-- A run's first command completes, and the rest runs in the state it leaves. -/
theorem runCommands_cons (i : Instr) (is : List Instr) (s : State) :
    runCommands (i :: is) s = runCommands is (respond (commandAnswer i s) (commandWrites i s)) :=
  runEvents_cons (deliver_command (decode_encode i) s) _

/-- FEEDs complete and append their bytes to the sequence that the registers track. -/
theorem runCommands_feeds_tracks {bs : List Byte} {s : State} (h : Tracks bs s) (ds : List Byte) :
    ∃ t, runCommands (ds.map .feed) s = .next t ∧ Tracks (bs ++ ds) t := by
  induction ds generalizing bs s with
  | nil => exact ⟨s, rfl, by rwa [List.append_nil]⟩
  | cons d ds ih =>
    obtain ⟨t, hrun, ht⟩ := ih (tracks_respond (tracks_takeByte h d) 0x0000)
    refine ⟨t, ?_, by simpa using ht⟩
    rw [List.map_cons, runCommands_cons]
    exact hrun

/-- INIT and FEEDs, from any state, leave the registers of the bytes fed. -/
theorem runCommands_init_feeds_tracks (bs : List Byte) (s : State) :
    ∃ t, runCommands (.init :: bs.map .feed) s = .next t ∧ Tracks bs t := by
  rw [runCommands_cons]
  exact runCommands_feeds_tracks (tracks_respond (tracks_startSequence s) 0x0000) bs

/-! The obligations of 10_state.md. -/

/-- Settles O33: each bit is its flag, and each flag is said once in `Laws/Flags`. -/
theorem statusBitsByField : Obligations.StatusBitsByField := by
  intro s
  simp only [status_getLsbD]
  refine ⟨flagValid_iff s, flagLen4_iff s, rfl, flagSat_iff s, fun k hk => List.getD_eq_default _ _ hk,
    flagValid_of_short, status_resetFor, exec_completes .rdStatus s⟩

/-- Settles O34: RX is `littleEndian` of the hold registers, which `Tracks` ties to the last two bytes. -/
theorem rxIsTheReceivedTrailer : Obligations.RxIsTheReceivedTrailer := by
  refine ⟨fun s => ⟨rfl, ?_, ?_, exec_completes .rdRx s⟩, fun d lo hi s h => ?_⟩
  · rw [rx_eq_littleEndian, littleEndian_low]
  · rw [rx_eq_littleEndian, littleEndian_high]
  · rw [rx_eq_littleEndian, h.hold1, h.hold0, fromEnd_two_append_pair, fromEnd_one_append_pair, littleEndian]

/-- Settles O35, by the four things a step can do; a command changes ERR only if it is INIT. -/
theorem errIsSticky : Obligations.ErrIsSticky := by
  refine ⟨rfl, fun s t hstep => ?_⟩
  obtain ⟨hin, rfl⟩ | ⟨rest, hin, rfl⟩ | ⟨w, rest, i, hin, hdec, rfl⟩ | ⟨w, rest, hin, hdec, rfl⟩ := step_cases hstep
  case inl => simp [hin]
  case inr.inl => simp [hin]
  case inr.inr.inl =>
    have hword : w = 0x0100#16 ↔ i = .init := word_eq_encode_iff hdec .init
    by_cases hi : i = .init
    · simp [hin, hdec, hword, hi, commandWrites]
    · simp [hin, hdec, hword, hi, commandWrites_err hi]
  case inr.inr.inr => simp [hin, hdec]

/-- Settles O38: FEED leaves `nextCnt`, which counts up below CNT_MAX and stands still at it. -/
theorem cntSaturatesAndNeverWraps : Obligations.CntSaturatesAndNeverWraps := by
  refine ⟨fun c => ⟨three_le_width c, width_le_sixteen c⟩, fun d s hfits => ?_⟩
  have hgrows : s.cnt.toNat ≤ (nextCnt s.cntW s.cnt).toNat := le_nextCnt hfits
  exact ⟨_, exec_completes (.feed d) s, nextCnt_le_cntMax _ _, nextCnt_toNat_of_lt, nextCnt_of_eq_cntMax, hgrows,
    fun h2 => h2.trans hgrows, fun h4 => h4.trans hgrows⟩

/-- Settles O43: the run ends in a state that tracks the bytes, read off by the length of the sequence. -/
theorem vaccLagsTwoBytesBehind : Obligations.VaccLagsTwoBytesBehind := by
  intro bs s
  obtain ⟨t, hrun, ht⟩ := runCommands_init_feeds_tracks bs s
  refine ⟨t, hrun, ?_, fun hshort => ?_, ?_, ?_, ?_⟩
  · rw [ht.vacc, allButLastTwo_eq_take]
  · rw [ht.vacc, allButLastTwo_of_length_le (by omega), compute_nil]
  · rintro p a b rfl
    exact ⟨by rw [ht.hold1, fromEnd_two_append_pair], by rw [ht.hold0, fromEnd_one_append_pair]⟩
  · rintro b rfl
    exact ⟨ht.hold1, ht.hold0⟩
  · rintro rfl
    exact ⟨ht.hold1, ht.hold0⟩

end Sys2Proof.Machine

/-! SUPPORT. Facts the memory obligations need: what a read leaves as it was, the checksum of a frame with its own
trailer, and VALID of the bytes fed. -/

namespace Sys2Proof.Machine

/-! A read command (R80 to R84) writes no register, and no earlier response changes what it answers. -/

theorem commandWrites_of_read {i : Instr} (h : i ∈ [Instr.rdCrc, .rdStatus, .rdCnt, .rdVcrc, .rdRx]) (s : State) :
    commandWrites i s = s := by
  cases i with
  | rdCrc | rdStatus | rdCnt | rdVcrc | rdRx => rfl
  | nop | init | feed d => simp at h

@[simp] theorem commandAnswer_respond (i : Instr) (v : Word) (s : State) :
    commandAnswer i (respond v s) = commandAnswer i s := by
  cases i <;> rfl

/-- R37: a read only responds. -/
theorem exec_of_read {i : Instr} (h : i ∈ [Instr.rdCrc, .rdStatus, .rdCnt, .rdVcrc, .rdRx]) (s : State) :
    exec i s = .next (respond (commandAnswer i s) s) := by
  rw [exec_completes, commandWrites_of_read h]

/-! The two bytes of a 16-bit value (R33). -/

/-- R8, R33: the trailer's two bytes put together again are the checksum. -/
@[simp] theorem littleEndian_bytes (c : Word) : littleEndian (c.extractLsb' 0 8) (c.extractLsb' 8 8) = c := by
  ext k hk
  by_cases h8 : k < 8
  · simp [littleEndian, hk, h8]
  · have hlow : k - 8 < 8 := by omega
    have hback : 8 + (k - 8) = k := by omega
    simp [littleEndian, hk, h8, hlow, hback]

/-! R70: the residue of a frame with its own checksum appended. -/

/-- R60: as long as the bits that leave are 0, the iterations only shift. -/
theorem crcBits_of_low_clear {n : Nat} {a : Word} (h : ∀ k < n, a.getLsbD k = false) : crcBits n a = a >>> n := by
  induction n generalizing a with
  | zero => simp [crcBits]
  | succ n ih =>
    have hshift : ∀ k < n, (a >>> 1).getLsbD k = false := fun k hk => by
      rw [BitVec.getLsbD_ushiftRight]
      exact h (1 + k) (by omega)
    rw [crcBits, crcBit_of_low_clear (h 0 n.succ_pos), ih hshift, ← BitVec.shiftRight_add, Nat.add_comm]

/-- R61: the accumulator's own low byte cancels it, so the eight iterations shift the high byte down. -/
theorem crcByte_low_byte (a : Word) : crcByte a (a.extractLsb' 0 8) = (a.extractLsb' 8 8).setWidth 16 := by
  have hlow : ∀ k < 8, (a ^^^ (a.extractLsb' 0 8).setWidth 16).getLsbD k = false := fun k hk => by
    have h16 : k < 16 := by omega
    simp [hk, h16]
  rw [crcByte, Config.iterations, crcBits_of_low_clear hlow]
  ext k hk
  by_cases h8 : k < 8
  · simp [h8]
  · simp [h8, BitVec.getLsbD_of_ge a (8 + k) (by omega)]

/-- R61: a byte alone in the accumulator is cancelled by that byte. -/
theorem crcByte_setWidth_self (b : Byte) : crcByte (b.setWidth 16) b = 0x0000 := by
  rw [crcByte, BitVec.xor_self]
  decide

/-- R70: a sequence followed by its own checksum, low byte first, has the CRC 0. -/
theorem compute_append_trailer (d : List Byte) : compute (d ++ trailer (compute d)) = 0x0000 := by
  rw [compute_append, trailer, List.foldl_cons, List.foldl_cons, List.foldl_nil, crcByte_low_byte,
    crcByte_setWidth_self]

/-- R63: data followed by its own checksum verifies once the frame has four bytes. -/
theorem verify_append_trailer (d : List Byte) : verify (d ++ trailer (compute d)) = true ↔ 2 ≤ d.length := by
  have hlen : (d ++ trailer (compute d)).length = d.length + 2 := by simp [trailer]
  by_cases h2 : 2 ≤ d.length
  · rw [verify_of_long (by omega), trailer, allButLastTwo_append_pair, fromEnd_two_append_pair,
      fromEnd_one_append_pair, littleEndian_bytes]
    simp [h2]
  · rw [verify_of_short (by omega)]
    simp [h2]

/-! RX and VALID of the bytes fed (R16, R18). -/

theorem Tracks.rx_eq {bs : List Byte} {s : State} (h : Tracks bs s) :
    rx s = littleEndian (fromEnd 2 bs) (fromEnd 1 bs) := by
  rw [rx_eq_littleEndian, h.hold1, h.hold0]

/-- CNT saturates above 4, so it still tells a frame of four bytes from a shorter one. -/
theorem Tracks.four_le_cnt_iff {bs : List Byte} {s : State} (h : Tracks bs s) : 4 ≤ s.cnt.toNat ↔ 4 ≤ bs.length := by
  have hmax := seven_le_cntMax s.cntW
  rw [h.cnt]
  omega

/-- R18, R69: VALID is the verdict on the bytes fed. -/
theorem Tracks.status_valid {bs : List Byte} {s : State} (h : Tracks bs s) : (status s).getLsbD 0 = verify bs := by
  rw [status_getLsbD, List.getD_cons_zero, Bool.eq_iff_iff, flagValid_iff, h.four_le_cnt_iff, h.vacc, h.rx_eq]
  by_cases h4 : 4 ≤ bs.length
  · rw [verify_of_long h4, beq_iff_eq, and_iff_right h4]
  · rw [verify_of_short (not_le.mp h4)]
    simp [h4]

/-! The obligations of 20_memory.md. -/

/-- Settles O48: the second run leaves the registers of the data and its trailer, and each result is one fact about that
sequence. -/
theorem checksumAppendedLowByteFirstVerifies : Obligations.ChecksumAppendedLowByteFirstVerifies := by
  intro d s
  obtain ⟨t, hdata, ht⟩ := runCommands_init_feeds_tracks d s
  obtain ⟨u, htrailer, hu⟩ := runCommands_feeds_tracks ht (trailer t.acc)
  rw [ht.acc] at hu
  refine ⟨t, u, hdata, ht.acc, htrailer, ?_, ?_, ?_⟩
  · rw [hu.rx_eq, trailer, fromEnd_two_append_pair, fromEnd_one_append_pair, littleEndian_bytes, ht.acc]
  · rw [hu.acc, compute_append_trailer]
  · rw [hu.status_valid, verify_append_trailer]

/-- Settles O32: a read only responds, and answers the same after its own response. -/
theorem readsAreIdempotent : Obligations.ReadsAreIdempotent := by
  intro i s hi
  refine ⟨commandAnswer i s, _, exec_of_read hi s, rfl, ?_⟩
  rw [exec_of_read hi, commandAnswer_respond, respond, respond, List.append_assoc]
  rfl

end Sys2Proof.Machine


/-! SUPPORT. Facts the encoding obligations need: which words decode to what, field by field and as a list, the answer to
one word, and what a run of FEEDs answers. -/

namespace Sys2Proof

/-! R41, test by test: what each field alone decides. -/

theorem decode_of_fieldRsv_ne {w : Word} (h : fieldRsv w ≠ 0) : decode w = .illegalCommand := if_pos h

theorem decode_feed {w : Word} (hrsv : fieldRsv w = 0) (hop : fieldOp w = 0x2) :
    decode w = .command (.feed (fieldD w)) := by
  rw [decode, if_neg (not_not.mpr hrsv), if_pos hop]

theorem decode_of_seven_lt_fieldOp {w : Word} (h : 0x7 < (fieldOp w).toNat) : decode w = .illegalCommand := by
  have hgt : fieldOp w > 0x7 := BitVec.lt_def.mpr h
  have hne : fieldOp w ≠ 0x2 := fun h2 => by rw [h2] at h; contradiction
  rw [decode, if_neg hne, if_pos hgt, ite_self]

theorem decode_of_fieldD_ne {w : Word} (hop : fieldOp w ≠ 0x2) (hd : fieldD w ≠ 0x00) :
    decode w = .illegalCommand := by
  rw [decode, if_neg hop, if_pos hd, ite_self, ite_self]

theorem decode_plain {w : Word} (hrsv : fieldRsv w = 0) (hfeed : fieldOp w ≠ 0x2) (hop : (fieldOp w).toNat ≤ 0x7)
    (hd : fieldD w = 0x00) : decode w = decodeOp (fieldOp w) := by
  have hle : ¬ fieldOp w > 0x7 := fun hgt => absurd (BitVec.lt_def.mp hgt) (not_lt.mpr hop)
  rw [decode, if_neg (not_not.mpr hrsv), if_neg hfeed, if_neg hle, if_neg (not_not.mpr hd)]

/-- R42: the operations 0x0 to 0x7 all exist; FEED's 0x2 is not among those without a data byte. -/
theorem decodeOp_ne_illegalCommand {op : BitVec 4} (hfeed : op ≠ 0x2) (hop : op.toNat ≤ 0x7) :
    decodeOp op ≠ .illegalCommand := by
  revert op
  decide

/-- R44 by fields: the three grounds, and no fourth. -/
theorem decode_eq_illegalCommand_iff (w : Word) :
    decode w = .illegalCommand ↔
      fieldRsv w ≠ 0 ∨ 0x7 < (fieldOp w).toNat ∨ (fieldOp w ≠ 0x2 ∧ fieldD w ≠ 0x00) := by
  constructor
  · intro h
    by_contra hlegal
    push Not at hlegal
    obtain ⟨hrsv, hop, hd⟩ := hlegal
    by_cases hfeed : fieldOp w = 0x2
    · rw [decode_feed hrsv hfeed] at h
      cases h
    · rw [decode_plain hrsv hfeed hop (hd hfeed)] at h
      exact decodeOp_ne_illegalCommand hfeed hop h
  · rintro (hrsv | hop | ⟨hfeed, hd⟩)
    · exact decode_of_fieldRsv_ne hrsv
    · exact decode_of_seven_lt_fieldOp hop
    · exact decode_of_fieldD_ne hfeed hd

/-- R44 in numbers: the three grounds read off the word's value. -/
theorem decode_eq_illegalCommand_iff_toNat (w : Word) :
    decode w = .illegalCommand ↔
      w.toNat / 0x1000 ≠ 0 ∨ 8 ≤ w.toNat / 0x100 % 0x10 ∨ (w.toNat / 0x100 % 0x10 ≠ 2 ∧ w.toNat % 0x100 ≠ 0) := by
  rw [decode_eq_illegalCommand_iff]
  simp only [ne_eq, ← BitVec.toNat_inj, fieldRsv_toNat, fieldOp_toNat, fieldD_toNat]
  exact Iff.rfl

/-- R44: the checks written from the rule's list agree with the decoder. -/
theorem legalWord_iff (w : Word) : legalWord w = true ↔ decode w ≠ .illegalCommand := by
  rw [ne_eq, decode_eq_illegalCommand_iff_toNat]
  simp only [legalWord, reservedIsZero, operationExists, dataAllowed, Bool.and_eq_true, Bool.or_eq_true, beq_iff_eq,
    decide_eq_true_eq]
  omega

/-! R42: the words of each command. -/

theorem decode_eq_command_iff (w : Word) (i : Instr) : decode w = .command i ↔ w = encode i :=
  ⟨eq_encode_of_decode, fun h => h ▸ decode_encode i⟩

theorem encode_injective : Function.Injective encode := fun i j h =>
  Decoded.command.inj (by rw [← decode_encode i, h, decode_encode])

theorem decode_ne_illegalCommand_iff (w : Word) : decode w ≠ .illegalCommand ↔ ∃ i, encode i = w := by
  constructor
  · intro h
    cases hd : decode w with
    | command i => exact ⟨i, (eq_encode_of_decode hd).symm⟩
    | illegalCommand => exact absurd hd h
  · rintro ⟨i, rfl⟩
    simp

/-- A row whose mask is 0xFFFF has the one word that is its match value. -/
theorem decode_eq_command_iff_full_mask (w : Word) (i : Instr) : decode w = .command i ↔ w &&& 0xFFFF = encode i := by
  rw [decode_eq_command_iff, show (0xFFFF : Word) = BitVec.allOnes 16 from rfl, BitVec.and_allOnes]

/-- R40: D as a 16-bit value is the word under the mask of its low byte. -/
theorem setWidth_fieldD (w : Word) : (fieldD w).setWidth 16 = w &&& 0x00FF := by
  apply BitVec.eq_of_toNat_eq
  have hmask : w.toNat &&& 0xFF = w.toNat % 0x100 := Nat.and_two_pow_sub_one_eq_mod w.toNat 8
  rw [BitVec.toNat_setWidth_of_le (by decide), fieldD_toNat, BitVec.toNat_and, ← hmask]
  rfl

/-- FEED's row: the mask leaves out the byte, and the byte is whatever the word has there. -/
theorem decode_eq_feed_iff_mask (w : Word) : (∃ d, decode w = .command (.feed d)) ↔ w &&& 0xFF00 = 0x0200 := by
  simp only [decode_eq_command_iff]
  constructor
  · rintro ⟨d, rfl⟩
    revert d
    decide
  · intro h
    refine ⟨fieldD w, ?_⟩
    calc w = w &&& (0xFF00 ||| 0x00FF) := (BitVec.and_allOnes (x := w)).symm
      _ = (w &&& 0xFF00) ||| (w &&& 0x00FF) := BitVec.and_or_distrib_left
      _ = encode (.feed (fieldD w)) := by rw [h, ← setWidth_fieldD, encode]

/-- R42: the legal words, the seven single ones and FEED's 256. -/
theorem decode_ne_illegalCommand_iff_range (w : Word) :
    decode w ≠ .illegalCommand ↔
      w ∈ [0x0000, 0x0100, 0x0300, 0x0400, 0x0500, 0x0600, 0x0700] ∨ (0x0200 ≤ w.toNat ∧ w.toNat ≤ 0x02FF) := by
  rw [ne_eq, decode_eq_illegalCommand_iff_toNat]
  simp only [List.mem_cons, List.not_mem_nil, or_false, BitVec.ofNat_eq_ofNat, ← BitVec.toNat_inj, BitVec.toNat_ofNat]
  omega

/-! Every command, listed once (R42). -/

/-- The seven commands without an operand, in the order of the map. -/
def plainCommands : List Instr := [.nop, .init, .rdCrc, .rdStatus, .rdCnt, .rdVcrc, .rdRx]

/-- FEED with every operand of R43. -/
def feedCommands : List Instr := (List.finRange 256).map fun n => .feed (BitVec.ofFin n)

def allCommands : List Instr := plainCommands ++ feedCommands

theorem mem_allCommands (i : Instr) : i ∈ allCommands := by
  rw [allCommands, List.mem_append]
  cases i with
  | feed d => exact .inr (List.mem_map.mpr ⟨d.toFin, List.mem_finRange _, rfl⟩)
  | nop | init | rdCrc | rdStatus | rdCnt | rdVcrc | rdRx => exact .inl (by decide)

theorem allCommands_nodup : allCommands.Nodup := by
  refine List.Nodup.append (by decide) ?_ ?_
  · refine (List.nodup_finRange 256).map fun m n h => ?_
    simpa using h
  · intro i hplain hfeed
    obtain ⟨n, -, rfl⟩ := List.mem_map.mp hfeed
    simp [plainCommands] at hplain

theorem allCommands_length : allCommands.length = 263 := by
  rw [allCommands, List.length_append, feedCommands, List.length_map, List.length_finRange]
  rfl

/-- R42: the words of all commands are the legal words. -/
theorem mem_map_encode_allCommands_iff (w : Word) : w ∈ allCommands.map encode ↔ decode w ≠ .illegalCommand := by
  simp [decode_ne_illegalCommand_iff, mem_allCommands]

end Sys2Proof

namespace Sys2Proof.Machine

/-! R47: the answer to one word. -/

/-- What a command answers is what R47's table says. -/
theorem responseWord_command (i : Instr) (s : State) : responseWord (.command i) s = commandAnswer i s := by
  cases i <;> rfl

/-- One word from the host, legal or not, is taken and answered once, and no waiting move is lost. -/
theorem deliver_word_answers (w : Word) (s : State) :
    ∃ t, deliver (.command w) s = .next t ∧ t.responses = s.responses ++ [responseWord (decode w) s] ∧
      t.input = s.input := by
  cases hd : decode w with
  | command i =>
    refine ⟨_, deliver_command hd s, ?_, ?_⟩
    · rw [respond_responses, commandWrites_responses, responseWord_command]
    · rw [respond_input, commandWrites_input]
  | illegalCommand => exact ⟨_, deliver_illegal hd s, rfl, rfl⟩

/-- A run's first word, then the rest of it. -/
theorem runWords_cons {w : Word} {s t : State} (h : deliver (.command w) s = .next t) (ws : List Word) :
    runWords (w :: ws) s = runWords ws t :=
  runEvents_cons h _

/-! R49: runs of commands put together, and what FEEDs answer. -/

/-- One more command after a run. -/
theorem runCommands_snoc {is : List Instr} {s t : State} (h : runCommands is s = .next t) (i : Instr) :
    runCommands (is ++ [i]) s = .next (respond (commandAnswer i t) (commandWrites i t)) := by
  rw [runCommands, runWords, List.map_append, List.map_append, runEvents_append h]
  exact runCommands_cons i [] t

/-- R66: FEEDs answer 0x0000, one for each byte. -/
theorem runCommands_feeds_responses {ds : List Byte} {s t : State} (h : runCommands (ds.map .feed) s = .next t) :
    t.responses = s.responses ++ List.replicate ds.length 0x0000 := by
  induction ds generalizing s with
  | nil =>
    cases h
    exact (List.append_nil _).symm
  | cons d ds ih =>
    rw [List.map_cons, runCommands_cons] at h
    rw [ih h, respond_responses, commandWrites_responses, List.append_assoc]
    rfl

/-- INIT, the bytes, and one last command: it answers from registers that track the bytes, after a 0x0000 for INIT and
for each byte. -/
theorem runCommands_init_feeds_snoc (bs : List Byte) (i : Instr) (s : State) :
    ∃ t, Tracks bs t ∧
      runCommands ([.init] ++ bs.map .feed ++ [i]) s = .next (respond (commandAnswer i t) (commandWrites i t)) ∧
      t.responses = s.responses ++ List.replicate (bs.length + 1) 0x0000 := by
  obtain ⟨t, hrun, ht⟩ := runCommands_init_feeds_tracks bs s
  refine ⟨t, ht, runCommands_snoc hrun i, ?_⟩
  rw [runCommands_cons] at hrun
  rw [runCommands_feeds_responses hrun, respond_responses, commandWrites_responses, List.append_assoc]
  rfl

/-! The obligations of 30_encoding.md. -/

/-- Settles O46, by induction on the words: the first one is answered in `s`, the k-th of the others is the (k+1)-th of
all. -/
theorem everyWordIsAnsweredOnceInOrder : Obligations.EveryWordIsAnsweredOnceInOrder := by
  intro ws
  induction ws with
  | nil => exact fun s => ⟨s, [], rfl, (List.append_nil _).symm, rfl, rfl, fun k w hk => by simp at hk⟩
  | cons w ws ih =>
    intro s
    obtain ⟨s₁, hfirst, hresp₁, hin₁⟩ := deliver_word_answers w s
    obtain ⟨t, rs, hrun, hresp, hlen, hin, hkth⟩ := ih s₁
    refine ⟨t, responseWord (decode w) s :: rs, ?_, ?_, ?_, hin.trans hin₁, ?_⟩
    · rw [runWords_cons hfirst, hrun]
    · rw [hresp, hresp₁, List.append_assoc, List.singleton_append]
    · rw [List.length_cons, List.length_cons, hlen]
    · rintro (_ | k) v hv
      · obtain rfl : w = v := by simpa using hv
        exact ⟨s, rfl, rfl⟩
      · obtain ⟨sk, hrunk, hrk⟩ := hkth k v hv
        refine ⟨sk, ?_, hrk⟩
        rw [List.take_succ_cons, runWords_cons hfirst, hrunk]

/-- Settles O3: each clause is one test of R41 on the word's own fields. -/
theorem decodeByFields : Obligations.DecodeByFields := by
  intro rsv op d
  refine ⟨fun hrsv => decode_of_fieldRsv_ne ?_, fun hrsv hop => ?_, fun hop => decode_of_seven_lt_fieldOp ?_,
    fun hfeed hd => decode_of_fieldD_ne ?_ ?_, ?_⟩
  · rwa [fieldRsv_append]
  · rw [decode_feed (by rwa [fieldRsv_append]) (by rwa [fieldOp_append]), fieldD_append]
  · rwa [fieldOp_append]
  · rwa [fieldOp_append]
  · rwa [fieldD_append]
  · rintro rfl rfl
    refine ⟨?_, ?_, ?_, ?_, ?_, ?_, ?_⟩ <;> rintro rfl <;> decide

/-- Settles O4: the rows by match and mask, the legal words as numbers, and as the words of all commands. -/
theorem legalWordsAreThoseOfTheMap : Obligations.LegalWordsAreThoseOfTheMap := by
  refine ⟨fun w => ?_, ⟨allCommands.map encode, ?_, ?_, mem_map_encode_allCommands_iff⟩, rfl⟩
  · have hrow := decode_eq_command_iff_full_mask w
    exact ⟨hrow .nop, hrow .init, decode_eq_feed_iff_mask w, hrow .rdCrc, hrow .rdStatus, hrow .rdCnt, hrow .rdVcrc,
      hrow .rdRx, decode_ne_illegalCommand_iff_range w⟩
  · exact allCommands_nodup.map encode_injective
  · rw [List.length_map, allCommands_length]

/-- Settles O6: the grounds in numbers, where OP below 8 and not 2 is one of the seven, and what R91 says of every illegal
word. -/
theorem illegalOnThreeGroundsOnly : Obligations.IllegalOnThreeGroundsOnly := by
  refine fun w => ⟨?_, legalWord_iff w, fun h s => deliver_illegal h s⟩
  rw [decode_eq_illegalCommand_iff_toNat]
  simp only [List.mem_cons, List.not_mem_nil, or_false]
  omega

/-- Settles O47: the last command answers from registers that track the bytes, and all before it answer 0x0000. -/
theorem pseudoInstructionsGiveTheirResults : Obligations.PseudoInstructionsGiveTheirResults := by
  intro bs s
  refine ⟨⟨?_, ?_⟩, ⟨?_, ?_⟩, ?_, ?_⟩
  · simp [lineWords, expand, encode]
  · obtain ⟨t, ht, hrun, hresp⟩ := runCommands_init_feeds_snoc bs .rdCrc s
    refine ⟨_, hrun, ?_⟩
    rw [respond_responses, commandWrites_responses, hresp, commandAnswer, ht.acc]
  · simp [lineWords, expand, encode]
  · obtain ⟨t, ht, hrun, hresp⟩ := runCommands_init_feeds_snoc bs .rdStatus s
    refine ⟨_, status t, hrun, ?_, ht.status_valid⟩
    rw [respond_responses, commandWrites_responses, hresp, commandAnswer]
  · simp [lineWords, expand, encode]
  · obtain ⟨t, -, hrun, -⟩ := everyWordIsAnsweredOnceInOrder (lineWords (.pseudo (.feeds bs))) s
    exact ⟨t, hrun, runCommands_feeds_responses hrun⟩

end Sys2Proof.Machine

/-! SUPPORT. Facts the CRC obligations need: `crc_bit` as an injective linear map, two byte steps as sixteen iterations
over a little-endian pair, and the registers tracking the bytes through every move of the host. -/

namespace Sys2Proof.Machine

/-! R60, R67: one iteration. -/

/-- R60: the bit shifted in at the top is 0. -/
@[simp] theorem shiftRight_one_bit15 (a : Word) : (a >>> 1).getLsbD 15 = false := by
  rw [BitVec.getLsbD_ushiftRight, BitVec.getLsbD_of_ge a _ (by decide)]

/-- R60: bit 15 of the result is the low bit that was shifted out. -/
theorem crcBit_bit15 (a : Word) : (crcBit a).getLsbD 15 = a.getLsbD 0 := by
  cases h : a.getLsbD 0 with
  | true =>
    rw [crcBit_of_low_set h, BitVec.getLsbD_xor, shiftRight_one_bit15]
    rfl
  | false => rw [crcBit_of_low_clear h, shiftRight_one_bit15]

/-- The shift and the low bit are the whole word. -/
theorem eq_of_shiftRight_one_eq {a b : Word} (hlow : a.getLsbD 0 = b.getLsbD 0) (h : a >>> 1 = b >>> 1) : a = b := by
  apply BitVec.eq_of_getLsbD_eq
  rintro (_ | k) -
  · exact hlow
  · have hk := congrArg (fun x : Word => x.getLsbD k) h
    simpa only [BitVec.getLsbD_ushiftRight, Nat.add_comm 1 k] using hk

/-- R67: bit 15 tells whether the feedback was XORed in, so the iteration can be undone. -/
theorem crcBit_injective : Function.Injective crcBit := by
  intro a b h
  have hlow : a.getLsbD 0 = b.getLsbD 0 := by rw [← crcBit_bit15, h, crcBit_bit15]
  refine eq_of_shiftRight_one_eq hlow ?_
  cases ha : a.getLsbD 0 with
  | true => rwa [crcBit_of_low_set ha, crcBit_of_low_set (hlow ▸ ha), BitVec.xor_left_inj] at h
  | false => rwa [crcBit_of_low_clear ha, crcBit_of_low_clear (hlow ▸ ha)] at h

/-- R60 without its case split: the feedback is XORed in as often as the low bit says. -/
theorem crcBit_eq_xor (a : Word) : crcBit a = (a >>> 1) ^^^ (if a.getLsbD 0 then Config.feedback else 0) := by
  cases h : a.getLsbD 0 with
  | true => rw [crcBit_of_low_set h, if_pos rfl, Config.feedback]
  | false =>
    rw [crcBit_of_low_clear h, if_neg Bool.false_ne_true]
    exact BitVec.xor_zero.symm

/-- R67: one iteration is linear over GF(2). -/
theorem crcBit_xor (a b : Word) : crcBit (a ^^^ b) = crcBit a ^^^ crcBit b := by
  have hfeedback : (if (a ^^^ b).getLsbD 0 then Config.feedback else 0) =
      (if a.getLsbD 0 then Config.feedback else 0) ^^^ (if b.getLsbD 0 then Config.feedback else 0) := by
    rw [BitVec.getLsbD_xor]
    cases a.getLsbD 0 <;> cases b.getLsbD 0 <;> decide
  rw [crcBit_eq_xor, crcBit_eq_xor a, crcBit_eq_xor b, BitVec.ushiftRight_xor_distrib, hfeedback]
  ac_rfl

/-! R61, R67: many iterations, and the byte step. -/

theorem crcBits_injective (n : Nat) : Function.Injective (crcBits n) := by
  rw [funext (crcBits_eq_iterate n)]
  exact crcBit_injective.iterate n

@[simp] theorem crcBits_zero (n : Nat) : crcBits n 0 = 0 := by
  rw [crcBits_eq_iterate, Function.iterate_fixed crcBit_zero]

theorem crcBits_xor (n : Nat) (a b : Word) : crcBits n (a ^^^ b) = crcBits n a ^^^ crcBits n b := by
  induction n generalizing a b with
  | zero => rfl
  | succ n ih => rw [crcBits, crcBit_xor, ih, crcBits, crcBits]

theorem crcByte_eq_crcBits (a : Word) (b : Byte) : crcByte a b = crcBits 8 (a ^^^ b.setWidth 16) := rfl

theorem setWidth_sixteen_injective : Function.Injective (BitVec.setWidth 16 : Byte → Word) := by
  intro b b' h
  simpa using congrArg (BitVec.setWidth 8) h

/-- For one accumulator, different bytes leave different results. -/
theorem crcByte_injective (a : Word) : Function.Injective (crcByte a) := by
  intro b b' h
  exact setWidth_sixteen_injective ((BitVec.xor_right_inj a).mp (crcBits_injective 8 h))

/-- For one byte, different accumulators leave different results. -/
theorem crcByte_left_injective (b : Byte) : Function.Injective (crcByte · b) := by
  intro a a' h
  exact (BitVec.xor_left_inj _).mp (crcBits_injective 8 h)

/-- No byte that follows makes two different accumulators equal again. -/
theorem foldl_crcByte_injective (q : List Byte) : Function.Injective (fun a => q.foldl crcByte a) := by
  induction q with
  | nil => exact Function.injective_id
  | cons b q ih => exact ih.comp (crcByte_left_injective b)

theorem compute_append_right_inj {s t q : List Byte} : compute (s ++ q) = compute (t ++ q) ↔ compute s = compute t := by
  rw [compute_append, compute_append]
  exact (foldl_crcByte_injective q).eq_iff

/-! R70: two byte steps are sixteen iterations over the pair. -/

theorem littleEndian_eq_xor (lo hi : Byte) : littleEndian lo hi = lo.setWidth 16 ^^^ (hi.setWidth 16 <<< 8) := by
  ext k hk
  by_cases h8 : k < 8
  · simp [littleEndian, h8]
  · simp [littleEndian, h8, BitVec.getLsbD_of_ge lo k (by omega)]

theorem littleEndian_inj {lo hi lo' hi' : Byte} (h : littleEndian lo hi = littleEndian lo' hi') :
    lo = lo' ∧ hi = hi' :=
  ⟨by rw [← littleEndian_low lo hi, h, littleEndian_low], by rw [← littleEndian_high lo hi, h, littleEndian_high]⟩

/-- A byte in bits 15:8 is shifted down unchanged by eight iterations. -/
theorem crcBits_eight_high_byte (b : Byte) : crcBits 8 (b.setWidth 16 <<< 8) = b.setWidth 16 := by
  rw [crcBits_of_low_clear (fun k hk => by simp [hk])]
  ext k hk
  by_cases h8 : k < 8
  · simp [h8, show 8 + k < 16 by omega]
  · simp [BitVec.getLsbD_of_ge b k (by omega)]

/-- R70: the second byte can be XORed in eight iterations early, in bits 15:8, by linearity. -/
theorem crcByte_crcByte (a : Word) (lo hi : Byte) :
    crcByte (crcByte a lo) hi = crcBits 16 (a ^^^ littleEndian lo hi) :=
  calc crcByte (crcByte a lo) hi
    _ = crcBits 8 (crcBits 8 (a ^^^ lo.setWidth 16) ^^^ hi.setWidth 16) := rfl
    _ = crcBits 8 (crcBits 8 (a ^^^ lo.setWidth 16) ^^^ crcBits 8 (hi.setWidth 16 <<< 8)) := by
      rw [crcBits_eight_high_byte]
    _ = crcBits 16 (a ^^^ littleEndian lo hi) := by
      rw [← crcBits_xor, ← crcBits_add 8 8, littleEndian_eq_xor, BitVec.xor_assoc]

theorem compute_append_pair (d : List Byte) (lo hi : Byte) :
    compute (d ++ [lo, hi]) = crcBits 16 (compute d ^^^ littleEndian lo hi) := by
  rw [compute_append, List.foldl_cons, List.foldl_cons, List.foldl_nil, crcByte_crcByte]

/-- R70, the residue theorem. -/
theorem compute_append_pair_eq_zero_iff (d : List Byte) (lo hi : Byte) :
    compute (d ++ [lo, hi]) = 0 ↔ compute d = littleEndian lo hi := by
  rw [compute_append_pair, ← crcBits_zero 16, (crcBits_injective 16).eq_iff]
  exact BitVec.xor_eq_zero_iff

/-! R63: a sequence and its bytes by position. -/

theorem fromEnd_eq_getD {k : Nat} {f : List Byte} (hk : 1 ≤ k) (hlen : k ≤ f.length) :
    fromEnd k f = f.getD (f.length - k) 0 := by
  rw [fromEnd, List.getD_reverse _ (by omega)]
  congr 1
  omega

/-- From two bytes on, the last two are what `allButLastTwo` leaves out. -/
theorem eq_allButLastTwo_append_pair {f : List Byte} (h : 2 ≤ f.length) :
    f = allButLastTwo f ++ [fromEnd 2 f, fromEnd 1 f] := by
  obtain rfl | ⟨p, b, rfl⟩ := f.eq_nil_or_concat'
  · simp at h
  calc p ++ [b]
    _ = (p ++ [b]).dropLast ++ [b] := by rw [List.dropLast_concat]
    _ = allButLastTwo (p ++ [b]) ++ [fromEnd 2 (p ++ [b]), fromEnd 1 (p ++ [b])] := by
      rw [dropLast_eq_allButLastTwo_snoc h, fromEnd_one_snoc, List.append_assoc, List.singleton_append]

/-- R63, R70: from four bytes on, a frame verifies exactly when its CRC, trailer included, is 0. -/
theorem verify_eq_true_iff_residue {f : List Byte} (h : 4 ≤ f.length) : verify f = true ↔ compute f = 0 := by
  rw [verify_of_long h, beq_iff_eq, ← compute_append_pair_eq_zero_iff, ← eq_allButLastTwo_append_pair (by omega)]

/-! R69: the registers track the bytes fed through every move of the host. -/

theorem tracks_resetFor (c : CntW) : Tracks [] (State.resetFor c) :=
  ⟨rfl, rfl, rfl, rfl, by simp⟩

theorem tracks_withInput {bs : List Byte} {s : State} (h : Tracks bs s) (es : List HostEvent) :
    Tracks bs { s with input := es } :=
  ⟨h.acc, h.vacc, h.hold1, h.hold0, h.cnt⟩

theorem tracks_takeReset (s : State) : Tracks [] (takeReset s) :=
  tracks_withInput (tracks_resetFor s.cntW) s.input

/-- R91: an illegal word leaves the registers of R69 as they are. -/
theorem tracks_raiseIllegalCommand {bs : List Byte} {s : State} (h : Tracks bs s) : Tracks bs (raiseIllegalCommand s) :=
  ⟨h.acc, h.vacc, h.hold1, h.hold0, h.cnt⟩

theorem historyAfter_illegal {w : Word} (h : decode w = .illegalCommand) (bs : List Byte) :
    historyAfter (.command w) bs = bs := by
  simp only [historyAfter, h]

/-- Each command leaves the registers of the bytes that R69 and R102 count after it. -/
theorem tracks_commandWrites {bs : List Byte} {s : State} {w : Word} {i : Instr} (hd : decode w = .command i)
    (h : Tracks bs s) : Tracks (historyAfter (.command w) bs) (commandWrites i s) := by
  cases i with
  | init => simpa only [historyAfter, hd, commandWrites] using tracks_startSequence s
  | feed d => simpa only [historyAfter, hd, commandWrites] using tracks_takeByte h d
  | nop | rdCrc | rdStatus | rdCnt | rdVcrc | rdRx => simpa only [historyAfter, hd, commandWrites] using h

/-- Every move of the host is taken, and the registers track the bytes counted after it. -/
theorem deliver_tracks {bs : List Byte} {s : State} (h : Tracks bs s) (e : HostEvent) :
    ∃ t, deliver e s = .next t ∧ Tracks (historyAfter e bs) t := by
  cases e with
  | reset => exact ⟨_, deliver_reset s, tracks_takeReset s⟩
  | command w =>
    cases hd : decode w with
    | command i => exact ⟨_, deliver_command hd s, tracks_respond (tracks_commandWrites hd h) _⟩
    | illegalCommand =>
      refine ⟨_, deliver_illegal hd s, ?_⟩
      rw [historyAfter_illegal hd]
      exact tracks_raiseIllegalCommand h

/-- A step with moves waiting is the delivery of the first one. -/
theorem step_eq_deliver {s : State} {e : HostEvent} {rest : List HostEvent} (h : s.input = e :: rest) :
    step s = deliver e { s with input := rest } := by
  rw [deliver, ← h]

/-- R69, R102: a word other than INIT adds to the bytes counted what it feeds, a FEED its byte and any other word none. -/
theorem historyAfter_append_fedBytes {w : Word} (h : decode w ≠ .command .init) (bs : List Byte) (ws : List Word) :
    historyAfter (.command w) bs ++ fedBytes ws = bs ++ fedBytes (w :: ws) := by
  cases hd : decode w with
  | illegalCommand => simp [historyAfter, fedBytes, hd]
  | command i =>
    cases i with
    | init => exact absurd hd h
    | feed d => simp [historyAfter, fedBytes, hd]
    | nop | rdCrc | rdStatus | rdCnt | rdVcrc | rdRx => simp [historyAfter, fedBytes, hd]

/-- R69: any words without INIT append the bytes they feed to the sequence that the registers track. -/
theorem runWords_tracks {bs : List Byte} {s : State} (h : Tracks bs s) {ws : List Word}
    (hws : ∀ w ∈ ws, decode w ≠ .command .init) : ∃ t, runWords ws s = .next t ∧ Tracks (bs ++ fedBytes ws) t := by
  induction ws generalizing bs s with
  | nil => exact ⟨s, rfl, by rwa [fedBytes, List.filterMap_nil, List.append_nil]⟩
  | cons w ws ih =>
    obtain ⟨hw, hrest⟩ := List.forall_mem_cons.mp hws
    obtain ⟨u, hfirst, hu⟩ := deliver_tracks h (.command w)
    obtain ⟨t, hrun, ht⟩ := ih hu hrest
    exact ⟨t, by rw [runWords_cons hfirst, hrun], by rwa [historyAfter_append_fedBytes hw] at ht⟩

/-- R65: INIT completes and leaves the registers of no byte. -/
theorem tracks_of_exec_init {s t : State} (h : exec .init s = .next t) : Tracks [] t := by
  rw [exec_completes] at h
  cases h
  exact tracks_respond (tracks_startSequence s) _

/-! STATUS reads the registers alone (R17). -/

theorem SameRegisters.status_eq {s t : State} (h : SameRegisters s t) : status s = status t := by
  obtain ⟨hcntW, -, hvacc, hhold1, hhold0, hcnt, herr⟩ := h
  simp only [status, flagValid, flagLen4, flagSat, rx, hcntW, hvacc, hhold1, hhold0, hcnt, herr]

/-- R65, R100: INIT leaves the registers of reset. -/
theorem sameRegisters_startSequence (v : Word) (s : State) :
    SameRegisters (respond v (startSequence s)) (State.resetFor s.cntW) :=
  ⟨rfl, rfl, rfl, rfl, rfl, rfl, rfl⟩

/-! The obligations of 40_crc_commands.md. -/

/-- Settles O42: the idle step keeps the state, and any other step delivers the first move waiting. -/
theorem stepKeepsTheRegistersOfTheBytesFed : Obligations.StepKeepsTheRegistersOfTheBytesFed := by
  intro bs s h
  cases hin : s.input with
  | nil => exact ⟨s, step_idle hin, h⟩
  | cons e rest =>
    rw [step_eq_deliver hin]
    exact deliver_tracks (tracks_withInput h rest) e

/-- Settles O44: the run ends in a state that tracks the bytes fed, and each register is read off by their number. -/
theorem streamingComputesTheFrame : Obligations.StreamingComputesTheFrame := by
  intro start ws hstart hws
  have h0 : Tracks [] start := by
    obtain ⟨c, rfl⟩ | ⟨s, hinit⟩ := hstart
    · exact tracks_resetFor c
    · exact tracks_of_exec_init hinit
  obtain ⟨t, hrun, ht⟩ := runWords_tracks h0 hws
  rw [List.nil_append] at ht
  refine ⟨t, hrun, ?_⟩
  rintro _ rfl
  refine ⟨ht.acc, ht.cnt, fun h2 => ?_, fun b hb => ?_, fun hnil => ?_, ht.status_valid⟩
  · rw [← fromEnd_eq_getD (by decide) h2, ← fromEnd_eq_getD (by decide) (by omega), ← allButLastTwo_eq_take]
    exact ⟨ht.vacc, ht.hold1, ht.hold0, ht.rx_eq⟩
  · rw [hb] at ht
    exact ⟨ht.vacc, ht.hold1, ht.hold0⟩
  · rw [hnil] at ht
    exact ⟨ht.vacc, ht.hold1, ht.hold0⟩

/-- Settles O19: `verify` by position, its trailer read from the end of the frame. -/
theorem verifyComparesDataWithTrailer : Obligations.VerifyComparesDataWithTrailer := by
  refine ⟨fun f => verify_of_short, fun f h4 => ?_, verify_of_short (by decide), by decide⟩
  rw [verify_of_long h4, allButLastTwo_eq_take, fromEnd_eq_getD (by decide) (by omega),
    fromEnd_eq_getD (by decide) (by omega), littleEndian]

/-- Settles O20: injectivity on the finitely many 16-bit values is bijectivity. -/
theorem crcBitIsLinearAndBijective : Obligations.CrcBitIsLinearAndBijective :=
  ⟨crcBit_xor, Finite.injective_iff_bijective.mp crcBit_injective, shiftRight_one_bit15⟩

/-- Settles O22: the residue theorem, and VALID as the verdict on the bytes fed, which is their residue. -/
theorem residueIsZeroExactlyForValidTrailers : Obligations.ResidueIsZeroExactlyForValidTrailers := by
  refine ⟨compute_append_pair_eq_zero_iff, compute_append_trailer, fun bs s h h4 => ?_⟩
  rw [h.status_valid, h.acc, verify_eq_true_iff_residue (h.four_le_cnt_iff.mp h4)]

/-- Settles O23: the bytes after cannot undo the difference, and the changed bytes enter an injective map. -/
theorem changedNeighbouringBytesChangeTheCrc : Obligations.ChangedNeighbouringBytesChangeTheCrc := by
  constructor
  · intro p q b b' hne heq
    rw [compute_append_right_inj, compute_snoc, compute_snoc] at heq
    exact hne (crcByte_injective _ heq)
  · intro p q lo hi lo' hi' hne heq
    rw [compute_append_right_inj, compute_append_pair, compute_append_pair] at heq
    have hpair := (BitVec.xor_right_inj _).mp (crcBits_injective 16 heq)
    exact hne (Prod.ext_iff.mpr (littleEndian_inj hpair))

/-- Settles O16: R60's two cases, and bit 15 as the low bit shifted out; 0x0001 tells the order apart. -/
theorem crcBitShiftsThenXors : Obligations.CrcBitShiftsThenXors := by
  refine ⟨fun a h => ⟨crcBit_of_low_set h, ?_⟩, fun a h => ⟨crcBit_of_low_clear h, ?_⟩, ⟨0x0001, ?_⟩, ?_, ?_⟩
  · rw [crcBit_bit15, h]
  · rw [crcBit_bit15, h]
  all_goals decide

/-- Settles O17. -/
theorem crcByteIsXorThenEightSteps : Obligations.CrcByteIsXorThenEightSteps := by
  refine ⟨fun a b => ?_, by decide⟩
  rw [crcByte_eq_crcBits, crcBits_eq_iterate]

/-- Settles O18. -/
theorem computeFoldsBytesInOrder : Obligations.ComputeFoldsBytesInOrder :=
  ⟨compute_nil, compute_snoc, by decide +kernel⟩

/-- Settles O21, bit by bit. -/
theorem feedbackIsReversedPolynomial : Obligations.FeedbackIsReversedPolynomial := by
  unfold Obligations.FeedbackIsReversedPolynomial
  decide

/-- Settles O24: NOP writes no register, and a word that is only a data byte is illegal by R44 (c). -/
theorem nopOnlyResponds : Obligations.NopOnlyResponds := by
  refine ⟨rfl, exec_completes .nop, fun d hd => ?_⟩
  have hlt := d.isLt
  have hne : d.toNat ≠ 0 := fun h0 => hd (BitVec.eq_of_toNat_eq h0)
  rw [decode_eq_illegalCommand_iff_toNat, BitVec.toNat_setWidth_of_le (by decide)]
  omega

/-- Settles O25: INIT leaves the registers of reset, so STATUS is that of reset. -/
theorem initStartsASequence : Obligations.InitStartsASequence := by
  refine ⟨rfl, fun s => ?_⟩
  have hreset := sameRegisters_startSequence 0x0000 s
  exact ⟨_, exec_completes .init s, rfl, by rw [commandWrites, commandAnswer, hreset.status_eq, status_resetFor], hreset⟩

/-- Settles O26. -/
theorem feedTakesOneByte : Obligations.FeedTakesOneByte :=
  ⟨fun _ => rfl, fun d => exec_completes (.feed d), by decide, by decide⟩

end Sys2Proof.Machine

/-! SUPPORT. Facts the read obligations need: what a read answers, STATUS as a word made of its four flags, and what ACC,
CNT, VACC and RX hold for the bytes fed. -/

namespace Sys2Proof

/-- R40: RD_CRC's operation above a data byte, by fields. -/
theorem rdCrc_word_or_data_eq_fields (d : Byte) : (0x0300 : Word) ||| d.setWidth 16 = (0x0#4 ++ 0x3#4) ++ d := by
  revert d
  decide

/-- R44 (c): RD_CRC takes no data byte. -/
theorem decode_rdCrc_word_or_data {d : Byte} (hd : d ≠ 0x00) : decode (0x0300 ||| d.setWidth 16) = .illegalCommand := by
  rw [rdCrc_word_or_data_eq_fields]
  refine decode_of_fieldD_ne ?_ ?_
  · rw [fieldOp_append]
    decide
  · rwa [fieldD_append]

end Sys2Proof

namespace Sys2Proof.Machine

/-- R37, R47: a read appends its answer to the responses and changes nothing else. -/
theorem exec_of_read_of_answer_eq {i : Instr} (hi : i ∈ [Instr.rdCrc, .rdStatus, .rdCnt, .rdVcrc, .rdRx]) {s : State}
    {v : Word} (h : commandAnswer i s = v) : exec i s = .next { s with responses := s.responses ++ [v] } := by
  rw [exec_of_read hi, h, respond]

/-! R17, R81: STATUS as a word made of four flags. -/

/-- R81: the word that `status` puts together, for any four flags. -/
def flagWord (valid len4 err sat : Bool) : Word :=
  bitWord valid ||| (bitWord len4 <<< 1) ||| (bitWord err <<< 2) ||| (bitWord sat <<< 3)

theorem status_eq_flagWord (s : State) : status s = flagWord (flagValid s) (flagLen4 s) s.err (flagSat s) := rfl

/-- R81: the flags are added with the weights 1, 2, 4 and 8. -/
theorem flagWord_toNat (valid len4 err sat : Bool) :
    (flagWord valid len4 err sat).toNat =
      (if valid = true then 1 else 0) + (if len4 = true then 2 else 0) + (if err = true then 4 else 0) +
        (if sat = true then 8 else 0) := by
  revert valid len4 err sat
  decide

/-- R81: bits 1:0 are LEN4 above VALID. -/
theorem flagWord_and_three (valid len4 err sat : Bool) :
    flagWord valid len4 err sat &&& (0b11 : Word) = bitWord valid ||| (bitWord len4 <<< 1) := by
  revert valid len4 err sat
  decide

/-- R81: VALID and SAT each come with LEN4 only, which leaves ten of the sixteen values. -/
theorem flagWord_mem_of_len4 {valid len4 err sat : Bool} (hvalid : valid = true → len4 = true)
    (hsat : sat = true → len4 = true) :
    flagWord valid len4 err sat ∈
      [0x0000, 0x0002, 0x0003, 0x0004, 0x0006, 0x0007, 0x000A, 0x000B, 0x000E, 0x000F] := by
  revert valid len4 err sat
  decide

/-- R81: STATUS as the sum of its bits. -/
theorem status_toNat (s : State) :
    (status s).toNat =
      (if 4 ≤ s.cnt.toNat ∧ s.vacc = rx s then 1 else 0) + (if 4 ≤ s.cnt.toNat then 2 else 0) +
        (if s.err = true then 4 else 0) + (if s.cnt.toNat = cntMax s.cntW then 8 else 0) := by
  simp only [status_eq_flagWord, flagWord_toNat, flagValid_iff, flagLen4_iff, flagSat_iff]

theorem flagLen4_of_flagValid {s : State} (h : flagValid s = true) : flagLen4 s = true :=
  (flagLen4_iff s).mpr ((flagValid_iff s).mp h).1

/-- R81: a frame that is too short answers 00 in bits 1:0. -/
theorem status_and_three_of_short {s : State} (h : s.cnt.toNat < 4) : status s &&& 0b11 = 0b00 := by
  have hlen4 : flagLen4 s = false := decide_eq_false (Nat.not_le.mpr h)
  rw [status_eq_flagWord, flagWord_and_three, flagValid_of_short hlen4, hlen4]
  decide

/-- R81: a long enough frame with a bad trailer answers 10 in bits 1:0. -/
theorem status_and_three_of_bad_trailer {s : State} (h4 : 4 ≤ s.cnt.toNat) (h : s.vacc ≠ rx s) :
    status s &&& 0b11 = 0b10 := by
  have hvalid : flagValid s = false := Bool.eq_false_iff.mpr fun hv => h ((flagValid_iff s).mp hv).2
  rw [status_eq_flagWord, flagWord_and_three, hvalid, (flagLen4_iff s).mpr h4]
  decide

/-- R81: a long enough frame with a good trailer answers 11 in bits 1:0. -/
theorem status_and_three_of_good_trailer {s : State} (h4 : 4 ≤ s.cnt.toNat) (h : s.vacc = rx s) :
    status s &&& 0b11 = 0b11 := by
  rw [status_eq_flagWord, flagWord_and_three, (flagValid_iff s).mpr ⟨h4, h⟩, (flagLen4_iff s).mpr h4]
  decide

/-! R69: what the reads answer for the bytes fed. -/

/-- R63: only a frame of four bytes or more verifies. -/
theorem four_le_length_of_verify {f : List Byte} (h : verify f = true) : 4 ≤ f.length := by
  by_contra hshort
  rw [verify_of_short (Nat.not_le.mp hshort)] at h
  exact Bool.false_ne_true h

/-- R70: a frame that verifies has the CRC 0, its trailer included. -/
theorem compute_eq_zero_of_verify {f : List Byte} (h : verify f = true) : compute f = 0x0000 :=
  (verify_eq_true_iff_residue (four_le_length_of_verify h)).mp h

/-- R82: CNT as the word that RD_CNT answers. -/
theorem Tracks.cnt_eq {bs : List Byte} {s : State} (h : Tracks bs s) :
    s.cnt = BitVec.ofNat 16 (min bs.length (cntMax s.cntW)) := by
  rw [← h.cnt, BitVec.ofNat_toNat, BitVec.setWidth_eq]

/-- R20: SAT is up from CNT_MAX bytes on. -/
theorem Tracks.status_sat_iff {bs : List Byte} {s : State} (h : Tracks bs s) :
    (status s).getLsbD 3 = true ↔ cntMax s.cntW ≤ bs.length := by
  have hbit : (status s).getLsbD 3 = flagSat s := status_getLsbD s 3
  rw [hbit, flagSat_iff, h.cnt, min_eq_right_iff]

/-- R14: below its ceiling CNT is the number of bytes fed. -/
theorem Tracks.length_eq_cnt {bs : List Byte} {s : State} (h : Tracks bs s) (hlt : s.cnt.toNat < 7) :
    bs.length = s.cnt.toNat := by
  have hcnt := h.cnt
  have hmax := seven_le_cntMax s.cntW
  omega

/-- R8: with no low byte, the high byte alone is the pair. -/
@[simp] theorem littleEndian_zero_low (hi : Byte) : littleEndian 0x00 hi = hi.setWidth 16 <<< 8 := by
  simp [littleEndian]

/-! The obligations of 41_read_commands.md. -/

/-- Settles O27: ACC is `compute` of the bytes fed, and the residue of a frame that verifies is 0. -/
theorem rdCrcRespondsAcc : Obligations.RdCrcRespondsAcc := by
  refine ⟨rfl, exec_completes .rdCrc, fun d => decode_rdCrc_word_or_data, fun bs s h => ⟨?_, fun hverify => ?_⟩,
    compute_nil, by decide +kernel⟩
  · exact exec_of_read_of_answer_eq (by decide) h.acc
  · exact exec_of_read_of_answer_eq (by decide) (h.acc.trans (compute_eq_zero_of_verify hverify))

/-- Settles O28: the answer is STATUS, whose sum, low bits and possible values follow from its four flags. -/
theorem rdStatusRespondsStatus : Obligations.RdStatusRespondsStatus := by
  refine ⟨rfl, fun s => ⟨status s, exec_completes .rdStatus s, status_toNat s, status_and_three_of_short,
    status_and_three_of_bad_trailer, status_and_three_of_good_trailer, ?_, fun bs h => h.status_sat_iff.mp⟩⟩
  exact flagWord_mem_of_len4 flagLen4_of_flagValid flagLen4_of_flagSat

/-- Settles O29: CNT is the number of bytes fed, up to CNT_MAX, and SAT is up from there on. -/
theorem rdCntRespondsCount : Obligations.RdCntRespondsCount := by
  refine ⟨rfl, exec_completes .rdCnt, fun bs s h => ⟨?_, h.status_sat_iff.mpr⟩⟩
  exact exec_of_read_of_answer_eq (by decide) h.cnt_eq

/-- Settles O30: VACC is `compute` of all but the last two bytes, of which none are left up to CNT 2. -/
theorem rdVcrcRespondsVacc : Obligations.RdVcrcRespondsVacc := by
  refine ⟨rfl, exec_completes .rdVcrc, fun bs s h => ⟨?_, fun h2 => ?_⟩⟩
  · exact exec_of_read_of_answer_eq (by decide) (h.vacc.trans (by rw [allButLastTwo_eq_take]))
  · have hlen : bs.length ≤ 2 := by rwa [h.length_eq_cnt (by omega)]
    exact exec_of_read_of_answer_eq (by decide) (h.vacc.trans (by rw [allButLastTwo_of_length_le hlen, compute_nil]))

/-- Settles O31: RX is the last two bytes fed, and 0x00 stands for one that is missing. -/
theorem rdRxRespondsTrailer : Obligations.RdRxRespondsTrailer := by
  refine ⟨rfl, exec_completes .rdRx, fun bs s h => ⟨fun h0 => ?_, ?_⟩⟩
  · obtain rfl : bs = [] := List.length_eq_zero_iff.mp (by rw [h.length_eq_cnt (by omega), h0])
    exact exec_of_read_of_answer_eq (by decide) h.rx_eq
  · rintro - b rfl
    exact exec_of_read_of_answer_eq (by decide) (h.rx_eq.trans (littleEndian_zero_low b))

end Sys2Proof.Machine

/-! SUPPORT. Facts the exception obligations need: IllegalCommand taken by a step and by a run of words, and the two flags
that a bad frame leaves at 0. -/

namespace Sys2Proof.Machine

/-! R91, R96: IllegalCommand once, and again while ERR is set. -/

/-- A step that takes an illegal word raises IllegalCommand in the state without that move. -/
theorem step_illegal {s : State} {w : Word} {rest : List HostEvent} (h : s.input = .command w :: rest)
    (hd : decode w = .illegalCommand) : step s = .next (raiseIllegalCommand { s with input := rest }) := by
  rw [step_eq_deliver h, deliver_illegal hd]

/-- R96: nested in itself, IllegalCommand only responds. -/
theorem raiseIllegalCommand_of_err {s : State} (h : s.err = true) : raiseIllegalCommand s = respond 0x0000 s := by
  rw [raiseIllegalCommand, ← h]

/-- R96: with ERR set, a run of illegal words adds one 0x0000 for each and writes no register. -/
theorem runWords_illegal_of_err {ws : List Word} {s : State} (herr : s.err = true)
    (hws : ∀ w ∈ ws, decode w = .illegalCommand) :
    runWords ws s = .next { s with responses := s.responses ++ List.replicate ws.length 0x0000 } := by
  induction ws generalizing s with
  | nil =>
    rw [List.length_nil, List.replicate_zero, List.append_nil]
    rfl
  | cons w ws ih =>
    obtain ⟨hw, hrest⟩ := List.forall_mem_cons.mp hws
    have hfirst : deliver (.command w) s = .next (respond 0x0000 s) := by
      rw [deliver_illegal hw, raiseIllegalCommand_of_err herr]
    have htail := ih (s := respond 0x0000 s) herr hrest
    rw [runWords_cons hfirst, htail, respond_responses, ← List.append_cons, ← List.replicate_succ]
    rfl

/-! R92, R93: the flags of a frame that is short or does not check. -/

theorem flagLen4_of_short {s : State} (h : s.cnt.toNat < 4) : flagLen4 s = false :=
  Bool.eq_false_iff.mpr fun hlen => Nat.not_le.mpr h ((flagLen4_iff s).mp hlen)

theorem flagValid_of_bad_trailer {s : State} (h : s.vacc ≠ rx s) : flagValid s = false :=
  Bool.eq_false_iff.mpr fun hvalid => h ((flagValid_iff s).mp hvalid).2

/-! The obligations of 60_exceptions.md. -/

/-- Settles O10: the step raises IllegalCommand, and ERR is set from then on, so a second illegal word only responds. -/
theorem illegalCommandSetsErrOnly : Obligations.IllegalCommandSetsErrOnly := by
  intro s w rest hin hd
  refine ⟨_, step_illegal hin hd, rfl, fun v later hrest => ?_⟩
  rw [step_word hrest]
  cases decode v with
  | command i => rfl
  | illegalCommand => exact congrArg Host.Outcome.next (raiseIllegalCommand_of_err rfl)

/-- Settles O36: FEED does not write ERR, and each bit of STATUS after it is a flag of the state it leaves. -/
theorem badFramesRaiseNothing : Obligations.BadFramesRaiseNothing := by
  refine ⟨fun f => verify_of_short, fun d s => ⟨_, exec_completes (.feed d) s, rfl, ?_⟩⟩
  simp only [status_getLsbD]
  refine ⟨fun h4 hbad => ⟨flagValid_of_bad_trailer hbad, (flagLen4_iff _).mpr h4⟩, fun hshort => ?_, rfl⟩
  have hlen4 := flagLen4_of_short hshort
  exact ⟨flagValid_of_short hlen4, hlen4⟩

/-- Settles O37: the first word sets ERR, those after it only respond, and INIT leaves the registers of reset. -/
theorem manyIllegalWordsAreAsOne : Obligations.ManyIllegalWordsAreAsOne := by
  intro ws s hne hws
  cases ws with
  | nil => exact absurd rfl hne
  | cons w ws =>
    obtain ⟨hw, hrest⟩ := List.forall_mem_cons.mp hws
    refine ⟨_, ?_, rfl, _, exec_completes .init _, sameRegisters_startSequence 0x0000 _⟩
    rw [runWords_cons (deliver_illegal hw s), runWords_illegal_of_err rfl hrest, raiseIllegalCommand_responses,
      ← List.append_cons, ← List.replicate_succ]
    rfl

end Sys2Proof.Machine

/-! SUPPORT. The obligations of 70_reset_and_hazards.md, from the registers of reset and from runs without INIT. -/

namespace Sys2Proof.Machine

/-- R16, R100: at reset both bytes of RX are 0x00. -/
@[simp] theorem rx_resetFor (c : CntW) : rx (State.resetFor c) = 0x0000 := by
  rw [rx_eq_littleEndian, resetFor_hold1, resetFor_hold0]
  decide

/-- Settles O45: the run tracks the concatenation, of which STATUS bit 0 is the verdict and ACC the CRC. -/
theorem framesWithoutInitConcatenate : Obligations.FramesWithoutInitConcatenate := by
  intro bs s ws h hws
  obtain ⟨t, hrun, ht⟩ := runWords_tracks h hws
  exact ⟨t, hrun, ht, ht.status_valid, exec_of_read_of_answer_eq (by decide) ht.acc⟩

/-- Settles O11: each register by its reset value, STATUS and RX computed from them, and INIT's registers as those of
reset. -/
theorem resetStateIsTheListedOne : Obligations.ResetStateIsTheListedOne := by
  refine ⟨fun c => ?_, rfl, fun s => ⟨_, exec_completes .init s, sameRegisters_startSequence 0x0000 s⟩⟩
  exact ⟨resetFor_acc c, resetFor_vacc c, resetFor_hold1 c, resetFor_hold0 c, resetFor_cnt c, resetFor_err c,
    status_resetFor c, rx_resetFor c, resetFor_responses c⟩

end Sys2Proof.Machine

/-! SUPPORT. Facts the remaining obligations need: every move of the host said once, moves and the registers they read,
the rows of the opcode map, and the assembler's reading of a command's text. -/

namespace Sys2Proof

/-! R42: the rows of the opcode map. -/

/-- The row of the opcode map that a command belongs to. -/
def Instr.mapRow : Instr → OpcodeRow
  | .feed _ => ⟨"FEED", 0x0200, 0xFF00⟩
  | i => ⟨i.mnemonic, encode i, 0xFFFF⟩

theorem mapRow_mem_opcodeMap (i : Instr) : i.mapRow ∈ opcodeMap := by
  cases i <;> simp [opcodeMap, Instr.mapRow, Instr.mnemonic, encode]

theorem mapRow_mnemonic (i : Instr) : i.mapRow.mnemonic = i.mnemonic := by
  cases i <;> rfl

theorem mapRow_covers_encode (i : Instr) : i.mapRow.covers (encode i) = true := by
  cases i with
  | feed d => exact beq_iff_eq.mpr ((decode_eq_feed_iff_mask _).mp ⟨d, decode_encode (.feed d)⟩)
  | nop | init | rdCrc | rdStatus | rdCnt | rdVcrc | rdRx => decide

/-- R42: a row covers only legal words, and they decode to a command of that row. -/
theorem exists_command_of_covers {r : OpcodeRow} {w : Word} (hr : r ∈ opcodeMap) (hw : r.covers w = true) :
    ∃ i, decode w = .command i ∧ r = i.mapRow := by
  have hmask : w &&& r.mask = r.pattern := beq_iff_eq.mp hw
  have hplain : ∀ i, w &&& 0xFFFF = encode i → decode w = .command i := fun i =>
    (decode_eq_command_iff_full_mask w i).mpr
  simp only [opcodeMap, List.mem_cons, List.not_mem_nil, or_false] at hr
  obtain rfl | rfl | rfl | rfl | rfl | rfl | rfl | rfl := hr
  · exact ⟨.nop, hplain .nop hmask, rfl⟩
  · exact ⟨.init, hplain .init hmask, rfl⟩
  · obtain ⟨d, hd⟩ := (decode_eq_feed_iff_mask w).mpr hmask
    exact ⟨.feed d, hd, rfl⟩
  · exact ⟨.rdCrc, hplain .rdCrc hmask, rfl⟩
  · exact ⟨.rdStatus, hplain .rdStatus hmask, rfl⟩
  · exact ⟨.rdCnt, hplain .rdCnt hmask, rfl⟩
  · exact ⟨.rdVcrc, hplain .rdVcrc hmask, rfl⟩
  · exact ⟨.rdRx, hplain .rdRx hmask, rfl⟩

/-! The opcode table's bits at 16 (R40). -/

theorem tableWord_sixteen (w : Nat) : tableWord 16 w = some (BitVec.ofNat 16 (w % 2 ^ 16)) :=
  if_pos (Nat.mod_lt w (by decide))

theorem decodeTableWord_of_command {nbits w : Nat} {v : Word} {i : Instr} (hv : tableWord nbits w = some v)
    (hd : decode v = .command i) : decodeTableWord nbits w = some i := by
  simp only [decodeTableWord, hv, hd]

theorem decodeTableWord_of_illegal {nbits w : Nat} {v : Word} (hv : tableWord nbits w = some v)
    (hd : decode v = .illegalCommand) : decodeTableWord nbits w = none := by
  simp only [decodeTableWord, hv, hd]

/-! R5: the widths of CNT. -/

theorem width_of_ofNat? {n : Nat} {c : CntW} (h : CntW.ofNat? n = some c) : c.width = n := by
  have hwidth := List.find?_some h
  exact beq_iff_eq.mp hwidth

theorem ofNat?_width (c : CntW) : CntW.ofNat? c.width = some c := by
  cases c <;> decide

theorem exists_width_eq {n : Nat} (h3 : 3 ≤ n) (h16 : n ≤ 16) : ∃ c : CntW, c.width = n := by
  have hall : ∀ k < 14, ∃ c ∈ CntW.all, c.width = k + 3 := by decide
  obtain ⟨c, -, hc⟩ := hall (n - 3) (by omega)
  exact ⟨c, by omega⟩

end Sys2Proof

namespace Sys2Proof.Machine

/-! D16: every move of the host, said once. -/

/-- Everything a move of the host can do: reset, one command, or IllegalCommand. -/
theorem deliver_cases {e : HostEvent} {s t : State} (h : deliver e s = .next t) :
    (e = .reset ∧ t = takeReset s) ∨
    (∃ w i, e = .command w ∧ decode w = .command i ∧ t = respond (commandAnswer i s) (commandWrites i s)) ∨
    (∃ w, e = .command w ∧ decode w = .illegalCommand ∧ t = raiseIllegalCommand s) := by
  cases e with
  | reset => cases (deliver_reset s).symm.trans h; exact .inl ⟨rfl, rfl⟩
  | command w =>
    cases hd : decode w with
    | command i => cases (deliver_command hd s).symm.trans h; exact .inr (.inl ⟨w, i, rfl, hd, rfl⟩)
    | illegalCommand => cases (deliver_illegal hd s).symm.trans h; exact .inr (.inr ⟨w, rfl, hd, rfl⟩)

/-- R91: the block takes every move of the host; the moves still waiting are as they were. -/
theorem deliver_completes (e : HostEvent) (s : State) : ∃ t, deliver e s = .next t ∧ t.input = s.input := by
  cases e with
  | reset => exact ⟨_, deliver_reset s, rfl⟩
  | command w =>
    obtain ⟨t, ht, -, hin⟩ := deliver_word_answers w s
    exact ⟨t, ht, hin⟩

theorem deliver_input {e : HostEvent} {s t : State} (h : deliver e s = .next t) : t.input = s.input := by
  obtain ⟨u, hu, hin⟩ := deliver_completes e s
  cases hu.symm.trans h
  exact hin

/-- No move of the host changes the width of CNT. -/
theorem deliver_cntW {e : HostEvent} {s t : State} (h : deliver e s = .next t) : t.cntW = s.cntW := by
  obtain ⟨-, rfl⟩ | ⟨w, i, -, -, rfl⟩ | ⟨w, -, -, rfl⟩ := deliver_cases h
  · rfl
  · exact commandWrites_cntW i s
  · rfl

/-- The moves still waiting have no part in what one move does. -/
theorem deliver_withInput {e : HostEvent} {s t : State} (h : deliver e s = .next t) (es : List HostEvent) :
    deliver e { s with input := es } = .next { t with input := es } := by
  obtain ⟨rfl, rfl⟩ | ⟨w, i, rfl, hd, rfl⟩ | ⟨w, rfl, hd, rfl⟩ := deliver_cases h
  · exact deliver_reset _
  · rw [deliver_command hd]
    cases i <;> rfl
  · exact deliver_illegal hd _

/-- A placed word is delivered by the next step. -/
theorem step_withFetchWord {nbits w : Nat} {v : Word} (h : tableWord nbits w = some v) (s : State) :
    step (s.withFetchWord nbits w) = deliver (.command v) s := by
  simp only [State.withFetchWord, h, deliver]

/-! R10, written-by: only INIT and FEED write the registers of the sequence. -/

theorem commandWrites_eq_self {i : Instr} (hinit : i ≠ .init) (hfeed : ∀ d, i ≠ .feed d) (s : State) :
    commandWrites i s = s := by
  cases i with
  | init => exact absurd rfl hinit
  | feed d => exact absurd rfl (hfeed d)
  | nop | rdCrc | rdStatus | rdCnt | rdVcrc | rdRx => rfl

/-! R14: CNT within its width. -/

theorem cntFits_resetFor (c : CntW) : CntFits (State.resetFor c) := Nat.zero_le _

theorem cntFits_commandWrites {s : State} (h : CntFits s) (i : Instr) : CntFits (commandWrites i s) := by
  cases i with
  | init => exact Nat.zero_le _
  | feed d => exact nextCnt_le_cntMax s.cntW s.cnt
  | nop | rdCrc | rdStatus | rdCnt | rdVcrc | rdRx => exact h

/-! R10, R23: two states of one CNT_W whose registers agree. -/

/-- R100, R65: INIT leaves the registers that reset leaves. -/
theorem sameRegisters_takeReset_init (v : Word) (s : State) :
    SameRegisters (takeReset s) (respond v (startSequence s)) :=
  ⟨rfl, rfl, rfl, rfl, rfl, rfl, rfl⟩

theorem SameRegisters.respond {s t : State} (h : SameRegisters s t) (v : Word) :
    SameRegisters (respond v s) (respond v t) :=
  ⟨h.cntW, h.acc, h.vacc, h.hold1, h.hold0, h.cnt, h.err⟩

theorem SameRegisters.raiseIllegalCommand {s t : State} (h : SameRegisters s t) :
    SameRegisters (raiseIllegalCommand s) (raiseIllegalCommand t) :=
  ⟨h.cntW, h.acc, h.vacc, h.hold1, h.hold0, h.cnt, rfl⟩

theorem SameRegisters.startSequence {s t : State} (h : SameRegisters s t) :
    SameRegisters (startSequence s) (startSequence t) :=
  ⟨h.cntW, rfl, rfl, rfl, rfl, rfl, rfl⟩

theorem SameRegisters.takeByte {s t : State} (h : SameRegisters s t) (d : Byte) :
    SameRegisters (takeByte d s) (takeByte d t) where
  cntW := h.cntW
  acc := by rw [takeByte_acc, takeByte_acc, h.acc]
  vacc := by rw [takeByte_vacc, takeByte_vacc, h.vacc, h.hold1, h.cnt]
  hold1 := h.hold0
  hold0 := rfl
  cnt := by rw [takeByte_cnt, takeByte_cnt, h.cntW, h.cnt]
  err := h.err

theorem SameRegisters.commandWrites {s t : State} (h : SameRegisters s t) (i : Instr) :
    SameRegisters (commandWrites i s) (commandWrites i t) := by
  cases i with
  | init => exact h.startSequence
  | feed d => exact h.takeByte d
  | nop | rdCrc | rdStatus | rdCnt | rdVcrc | rdRx => exact h

/-- R47: an answer reads the registers alone. -/
theorem SameRegisters.commandAnswer_eq {s t : State} (h : SameRegisters s t) (i : Instr) :
    commandAnswer i s = commandAnswer i t := by
  cases i with
  | rdCrc => exact h.acc
  | rdStatus => exact h.status_eq
  | rdCnt => exact h.cnt
  | rdVcrc => exact h.vacc
  | rdRx => rw [commandAnswer, commandAnswer, rx_eq_littleEndian, rx_eq_littleEndian, h.hold1, h.hold0]
  | nop | init | feed d => rfl

/-- R23: one word is answered alike in two states whose registers agree, and they agree after it. -/
theorem SameRegisters.deliver_word {s s' : State} (h : SameRegisters s s') (w : Word) :
    ∃ t t' v, deliver (.command w) s = .next t ∧ deliver (.command w) s' = .next t' ∧
      t.responses = s.responses ++ [v] ∧ t'.responses = s'.responses ++ [v] ∧ SameRegisters t t' := by
  cases hd : decode w with
  | command i =>
    refine ⟨_, _, commandAnswer i s, deliver_command hd s, deliver_command hd s', ?_, ?_, ?_⟩
    · rw [respond_responses, commandWrites_responses]
    · rw [respond_responses, commandWrites_responses, h.commandAnswer_eq]
    · rw [h.commandAnswer_eq]
      exact (h.commandWrites i).respond _
  | illegalCommand =>
    exact ⟨_, _, 0x0000, deliver_illegal hd s, deliver_illegal hd s', rfl, rfl, h.raiseIllegalCommand⟩

/-! R48: the assembler and the text of a command. -/

theorem takeWhile_ne_semicolon {l : List Char} (h : ';' ∉ l) : l.takeWhile (· != ';') = l :=
  List.takeWhile_eq_self_iff.mpr fun _ hc => bne_iff_ne.mpr (ne_of_mem_of_not_mem hc h)

/-- A comment leaves the line as it is without it. -/
theorem parseLine_comment {l : List Char} (h : ';' ∉ l) (comment : List Char) :
    parseLine (l ++ [';'] ++ comment) = parseLine l := by
  have hl : ∀ c ∈ l, (c != ';') = true := fun c hc => bne_iff_ne.mpr (ne_of_mem_of_not_mem hc h)
  have hcut : (l ++ [';'] ++ comment).takeWhile (· != ';') = l := by
    rw [List.append_assoc, List.takeWhile_append_of_pos hl]
    exact List.append_nil l
  rw [parseLine, parseLine, hcut, takeWhile_ne_semicolon h]

/-- A byte is two hex digits. -/
theorem hexDigits_lt (d : Byte) : d.toNat / 16 < 16 ∧ d.toNat % 16 < 16 := by
  have hd := d.isLt
  omega

theorem hexDigit_hexChar {n : Nat} (h : n < 16) : hexDigit (hexChar n) = some n := by
  revert n
  decide

/-- A hex digit ends no line and no operand. -/
theorem hexChar_ne_separator {n : Nat} (h : n < 16) :
    isBlank (hexChar n) = false ∧ hexChar n ≠ ',' ∧ hexChar n ≠ ';' := by
  revert n
  decide

/-- R48: a byte written with two hex digits is read back. -/
theorem byteLiteral_hex (d : Byte) :
    byteLiteral ['0', 'x', hexChar (d.toNat / 16), hexChar (d.toNat % 16)] = some d := by
  obtain ⟨hhigh, hlow⟩ := hexDigits_lt d
  have hvalue : (0 * 16 + d.toNat / 16) * 16 + d.toNat % 16 = d.toNat := by omega
  rw [byteLiteral, if_pos (.inr rfl)]
  simp only [digitsFrom, hexDigit_hexChar hhigh, hexDigit_hexChar hlow, Option.bind_some, hvalue, Option.map_some,
    BitVec.ofNat_toNat, BitVec.setWidth_eq]

/-- The text of a command has no comment of its own. -/
theorem semicolon_notMem_asmText (i : Instr) : ';' ∉ asmText i := by
  cases i with
  | feed d =>
    obtain ⟨hhigh, hlow⟩ := hexDigits_lt d
    obtain ⟨-, -, hhigh⟩ := hexChar_ne_separator hhigh
    obtain ⟨-, -, hlow⟩ := hexChar_ne_separator hlow
    simp [asmText, hhigh.symm, hlow.symm]
  | nop | init | rdCrc | rdStatus | rdCnt | rdVcrc | rdRx => decide

theorem trimBlanks_asmText (i : Instr) : trimBlanks (asmText i) = asmText i := by
  cases i with
  | feed d =>
    obtain ⟨hlow, -⟩ := hexChar_ne_separator (hexDigits_lt d).2
    simp [asmText, trimBlanks, hlow, show isBlank 'F' = false from rfl]
  | nop | init | rdCrc | rdStatus | rdCnt | rdVcrc | rdRx => decide

/-- The operand of FEED, cut out of the rest of its line. -/
theorem operandTexts_hex {a b : Char} (ha : isBlank a = false ∧ a ≠ ',') (hb : isBlank b = false ∧ b ≠ ',') :
    operandTexts [' ', '0', 'x', a, b] = [['0', 'x', a, b]] := by
  have hblank : isBlank ' ' = true := rfl
  have hzero : isBlank '0' = false := rfl
  simp [operandTexts, trimBlanks, splitCommas, ha, hb, hblank, hzero]

/-- R48: a command's text is read as that command. -/
theorem parseLine_asmText (i : Instr) : parseLine (asmText i) = some (.command i) := by
  cases i with
  | feed d =>
    obtain ⟨hhigh, hlow⟩ := hexDigits_lt d
    obtain ⟨hhighBlank, hhighComma, -⟩ := hexChar_ne_separator hhigh
    obtain ⟨hlowBlank, hlowComma, -⟩ := hexChar_ne_separator hlow
    rw [parseLine, takeWhile_ne_semicolon (semicolon_notMem_asmText _), trimBlanks_asmText]
    change parseFields ['F', 'E', 'E', 'D'] (operandTexts [' ', '0', 'x', _, _]) = _
    rw [operandTexts_hex ⟨hhighBlank, hhighComma⟩ ⟨hlowBlank, hlowComma⟩, parseFields, if_pos rfl]
    simp only [byteLiteral_hex, Option.map_some]
  | nop | init | rdCrc | rdStatus | rdCnt | rdVcrc | rdRx => decide

/-! The obligations on runs, on encoding and on steps. -/

/-- Settles O2. -/
theorem decodeInvertsEncode : Obligations.DecodeInvertsEncode :=
  decode_eq_command_iff

/-- Settles O50, by induction on the words: each word is answered alike and leaves registers that agree. -/
theorem registersDetermineEveryRun : Obligations.RegistersDetermineEveryRun := by
  intro s s' ws
  induction ws generalizing s s' with
  | nil => exact fun h => ⟨s, s', [], rfl, rfl, (List.append_nil _).symm, (List.append_nil _).symm, h⟩
  | cons w ws ih =>
    intro h
    obtain ⟨u, u', v, hfirst, hfirst', hresp, hresp', hu⟩ := h.deliver_word w
    obtain ⟨t, t', rs, hrun, hrun', hresps, hresps', ht⟩ := ih u u' hu
    refine ⟨t, t', v :: rs, ?_, ?_, ?_, ?_, ht⟩
    · rw [runWords_cons hfirst, hrun]
    · rw [runWords_cons hfirst', hrun']
    · rw [hresps, hresp, ← List.append_cons]
    · rw [hresps', hresp', ← List.append_cons]

/-- Settles O49: reset and INIT leave registers that agree, and these determine every run. -/
theorem resetAndInitCannotBeToldApart : Obligations.ResetAndInitCannotBeToldApart := by
  intro s ws
  obtain ⟨t, u, rs, hrun⟩ := registersDetermineEveryRun _ _ ws (sameRegisters_takeReset_init 0x0000 s)
  exact ⟨_, _, t, u, rs, deliver_reset s, deliver_command (decode_encode .init) s, hrun⟩

/-- Settles O5: a row covers a word exactly when the word decodes to a command of that row. -/
theorem oneMapRowPerLegalWord : Obligations.OneMapRowPerLegalWord := by
  refine ⟨fun w i hd => ⟨i.mapRow, mapRow_mem_opcodeMap i, ?_, mapRow_mnemonic i⟩, fun w hd r hr => ?_,
    fun w r hr r' hr' hw hw' => ?_⟩
  · rw [eq_encode_of_decode hd]
    exact mapRow_covers_encode i
  · by_contra hw
    obtain ⟨i, hi, -⟩ := exists_command_of_covers hr (Bool.eq_true_of_not_eq_false hw)
    cases hd.symm.trans hi
  · obtain ⟨i, hi, rfl⟩ := exists_command_of_covers hr hw
    obtain ⟨j, hj, rfl⟩ := exists_command_of_covers hr' hw'
    rw [Decoded.command.inj (hi.symm.trans hj)]

/-- Settles O7: the text of a command by its parts, a comment cut off, and the rule's examples run. -/
theorem assemblerReadsItsOwnText : Obligations.AssemblerReadsItsOwnText := by
  refine ⟨fun i => ?_, fun i comment => ?_, ?_, ?_, ?_, ?_, ?_⟩
  · simp [assemble, parseLine_asmText, lineWords]
  · rw [parseLine_comment (semicolon_notMem_asmText i), parseLine_asmText]
  all_goals decide

/-- Settles O13: the idle step keeps the state, and any other step delivers the first move waiting. -/
theorem stepAlwaysAnswersNext : Obligations.StepAlwaysAnswersNext := by
  intro s
  cases hin : s.input with
  | nil => exact ⟨s, step_idle hin, hin, fun _ => rfl⟩
  | cons e rest =>
    obtain ⟨t, ht, hrest⟩ := deliver_completes e { s with input := rest }
    exact ⟨t, (step_eq_deliver hin).trans ht, hrest, nofun⟩

/-- Settles O14, by the three things a move can do; a command that is neither INIT nor FEED writes no register. -/
theorem registersChangeOnlyByTheirWriters : Obligations.RegistersChangeOnlyByTheirWriters := by
  intro e s t h
  refine ⟨deliver_cntW h, deliver_input h, ?_⟩
  obtain ⟨rfl, -⟩ | ⟨w, i, rfl, hd, rfl⟩ | ⟨w, rfl, hd, rfl⟩ := deliver_cases h
  · exact ⟨fun _ => .inl rfl, fun _ => .inl rfl⟩
  · have hw : w = encode i := eq_encode_of_decode hd
    by_cases hinit : i = .init
    · subst hw hinit
      exact ⟨fun _ => .inr (.inl rfl), fun _ => .inr (.inl rfl)⟩
    refine ⟨fun hchange => ?_, fun herr => absurd (commandWrites_err hinit s) herr⟩
    by_cases hfeed : ∃ d, i = .feed d
    · obtain ⟨d, rfl⟩ := hfeed
      exact .inr (.inr ⟨d, by rw [hw, encode]⟩)
    · rw [commandWrites_eq_self hinit (not_exists.mp hfeed)] at hchange
      simp at hchange
  · exact ⟨fun hchange => by simp at hchange, fun _ => .inr (.inr ⟨w, rfl, hd⟩)⟩

/-- Settles O15: each register after the move is a function of those named in its clause, one command at a time. -/
theorem registersDependOnlyOnTheirReads : Obligations.RegistersDependOnlyOnTheirReads := by
  intro e s s' t t' h h' hcntW
  cases e with
  | reset =>
    cases (deliver_reset s).symm.trans h
    cases (deliver_reset s').symm.trans h'
    simp
  | command w =>
    cases hd : decode w with
    | illegalCommand =>
      cases (deliver_illegal hd s).symm.trans h
      cases (deliver_illegal hd s').symm.trans h'
      simp +contextual
    | command i =>
      cases (deliver_command hd s).symm.trans h
      cases (deliver_command hd s').symm.trans h'
      cases i with
      | init => simp [commandWrites]
      | feed d => simp +contextual [commandWrites, hcntW]
      | nop | rdCrc | rdStatus | rdCnt | rdVcrc | rdRx => simp +contextual [commandWrites]

/-- Settles O40, by the four things a step can do. -/
theorem stepKeepsCntWithinItsWidth : Obligations.StepKeepsCntWithinItsWidth := by
  refine ⟨cntFits_resetFor, fun s t h hstep => ?_⟩
  obtain ⟨-, rfl⟩ | ⟨rest, -, rfl⟩ | ⟨w, rest, i, -, -, rfl⟩ | ⟨w, rest, -, -, rfl⟩ := step_cases hstep
  · exact h
  · exact cntFits_resetFor s.cntW
  · exact cntFits_commandWrites (s := { s with input := rest }) h i
  · exact h

/-- Settles O51, by induction on the moves: a step delivers the first one, and the others wait behind it unchanged. -/
theorem waitingMovesAreTakenOneByOne : Obligations.WaitingMovesAreTakenOneByOne := by
  intro es
  induction es with
  | nil => exact fun s => rfl
  | cons e es ih =>
    intro s
    obtain ⟨t, ht, hin⟩ := deliver_completes e s
    have hstep : step { s with input := e :: es ++ s.input } = .next { t with input := es ++ t.input } := by
      rw [step_eq_deliver rfl, hin]
      exact deliver_withInput ht _
    rw [List.length_cons, coreRun_succ hstep, ih t, runEvents_cons ht]

/-- Settles O1, by running the decoder on the twelve words. -/
theorem wordsFromTheFormatDecode : Obligations.WordsFromTheFormatDecode := by
  unfold Obligations.WordsFromTheFormatDecode
  decide

/-- Settles O8. -/
theorem stepRunsTheDecodedCommand : Obligations.StepRunsTheDecodedCommand := by
  intro s w rest i hin hd
  rw [step_eq_deliver hin, deliver_command hd, exec_completes]

/-- Settles O9: the next step delivers the placed word, and what it decodes to decides which half speaks of it. -/
theorem placedWordRunsNext : Obligations.PlacedWordRunsNext := by
  intro s w
  have hv := tableWord_sixteen w
  rw [step_withFetchWord hv]
  cases hd : decode (BitVec.ofNat 16 (w % 2 ^ 16)) with
  | command i =>
    rw [decodeTableWord_of_command hv hd, deliver_command hd, ← exec_completes]
    refine ⟨?_, nofun⟩
    rintro _ ⟨⟩
    rfl
  | illegalCommand =>
    rw [decodeTableWord_of_illegal hv hd, deliver_illegal hd]
    exact ⟨nofun, fun _ => rfl⟩

/-- Settles O12. -/
theorem resetIsTakenBetweenCommands : Obligations.ResetIsTakenBetweenCommands :=
  fun _ _ => step_reset

/-- Settles O39: each width from 3 to 16 has its name, and each name stands for its width. -/
theorem cntWidthsAreThreeToSixteen : Obligations.CntWidthsAreThreeToSixteen := by
  refine ⟨fun n => ⟨?_, ?_⟩, fun n c => width_of_ofNat?, rfl, fun c => ?_, by decide⟩
  · rintro ⟨c, hc⟩
    rw [← width_of_ofNat? hc]
    exact ⟨three_le_width c, width_le_sixteen c⟩
  · rintro ⟨h3, h16⟩
    obtain ⟨c, rfl⟩ := exists_width_eq h3 h16
    exact ⟨c, ofNat?_width c⟩
  · have h7 := seven_le_cntMax c
    omega

/-- Settles O41. -/
theorem resetAndInitTrackNoByte : Obligations.ResetAndInitTrackNoByte :=
  ⟨tracks_resetFor, fun _ _ => tracks_of_exec_init⟩

end Sys2Proof.Machine
